-- ==== Sys2Proof/Word.lean ====
section
/-!
DEFINITION. The words of the block: an 8-bit byte and a 16-bit node number (00_scope.md R10: every value is unsigned).
Counts, indices, times and the counters of parametric width are natural numbers (their moduli are parameters, R8).
-/
namespace Sys2Proof

/-- A payload byte, an operation code or a one-byte operand (30_encoding.md R90). -/
abbrev Byte := BitVec 8

/-- A node number, "16-bit logical address" (00_scope.md R14; 10_state.md R40). -/
abbrev NodeNumber := BitVec 16

end Sys2Proof
end

