-- ==== Sys2Proof/Syntax.lean ====
section
/-!
DEFINITION. The formats of 30_encoding.md R80 as types, and `Instr`: one constructor per row of spec/opcode_table.json
(00_scope.md R3: the operations of the block, the classes of received frame and the wire messages; and the codes of the
small enumerations, R92 to R94).
-/
namespace Sys2Proof

/-- The eight payload bytes `data[0..7]` of a frame or a Message (30_encoding.md R81, R86). -/
structure Payload where
  d0 : Byte
  d1 : Byte
  d2 : Byte
  d3 : Byte
  d4 : Byte
  d5 : Byte
  d6 : Byte
  d7 : Byte
  deriving DecidableEq, Repr, Inhabited

/-- A Message, "the module's internal representation of a decoded frame" (10_state.md R22; 30_encoding.md R86). -/
structure Message where
  len : BitVec 4
  data : Payload
  deriving DecidableEq, Repr, Inhabited

/-- A received frame in the layout of 10_state.md R21 and 30_encoding.md R81; `hdr` is the opaque transport-defined
field that the block never reads and passes on. -/
structure Frame where
  ext : Bool
  rtr : Bool
  len : BitVec 4
  data : Payload
  hdr : Nat
  deriving DecidableEq, Repr, Inhabited

/-- A mode indication value, the argument of `UI.indicateMode` (30_encoding.md R93). -/
inductive Indication where
  | slim
  | flim
  | modeChanging
  deriving DecidableEq, Repr, Inhabited

/-- The rows of spec/opcode_table.json, in the table's order. -/
inductive Instr where
  -- format CMD: 30_encoding.md R89
  | reset
  | process (maxMessages : Byte)
  | pUi
  | drain (maxMessages : Byte)
  | housekeep (act : Byte)
  | fhCall
  | rawdisp
  | activity
  | decdisp
  | svcInit
  | qput (m : Message)
  | qget
  | qpeek
  | qavail
  | qclear
  | qsize
  | qfull
  | qputs
  | qgets
  | qovf
  | qhwm
  | minit
  | mreneg
  | mconfirm
  | mtimeout
  | mrevert
  | msetslim
  | museract (act : Byte)
  | indicate (v : Indication)
  | enumStart
  | send (m : Message)
  | sendnn (opc : Byte)
  | sendRqnn
  | sendNnrel
  | sendWrack
  | sendCmderr (err : Byte)
  | sendGrsp (opc svcType result : Byte)
  -- format FRAME: 30_encoding.md R84
  | fExt (rtr : Bool) (len : BitVec 4) (data : Payload) (hdr : Nat)
  | fZero (rtr : Bool) (data : Payload) (hdr : Nat)
  | fStd (rtr : Bool) (len : BitVec 4) (data : Payload) (hdr : Nat)
  | fIllegal (ext rtr : Bool) (len : BitVec 4) (data : Payload) (hdr : Nat)
  -- format MSG: 30_encoding.md R87; the bytes that are not presented are kept
  | rqnn (nn : NodeNumber) (d3 d4 d5 d6 d7 : Byte)
  | nnrel (nn : NodeNumber) (d3 d4 d5 d6 d7 : Byte)
  | wrack (nn : NodeNumber) (d3 d4 d5 d6 d7 : Byte)
  | cmderr (nn : NodeNumber) (err d4 d5 d6 d7 : Byte)
  | grsp (nn : NodeNumber) (opc svcType result d6 d7 : Byte)
  -- format ACT: 30_encoding.md R92; ACT_NONE stands for the code 0 and for every code above 3
  | actNone (code : Byte)
  | actChangeMode
  | actRenegotiate
  | actEnumeration
  -- format IND: 30_encoding.md R93
  | indSlim
  | indFlim
  | indModechanging
  -- format ANS: 30_encoding.md R94
  | ansNotClaimed
  | ansClaimed
  deriving DecidableEq, Repr, Inhabited

end Sys2Proof
end

