-- ==== Sys2Proof/Config.lean ====
section
/-!
DEFINITION. The parameters of 00_scope.md R8, what an outside agent may do when it is given a turn (R13, R252), and the
free values: opaque constants for the draws of agents whose script is used up (log 7).
-/
namespace Sys2Proof

/-- One entry of the service table: "a stable numeric identifier, a version number" (10_state.md R42). -/
structure Service where
  id : Byte
  version : Byte
  deriving DecidableEq, Repr, Inhabited

/-- The parameters of 00_scope.md R8. None changes after construction. CFG_RESET is not among them: it is what the
Configuration store holds at construction (70_reset_and_hazards.md R240), and `maxMessages` is an operand. -/
structure Params where
  /-- `C`, the queue's capacity. -/
  capacity : Nat
  /-- `SVC[0..N-1]`, in registration order; `N` is its length. -/
  services : List Service
  /-- `UI_PRESENT`. -/
  uiPresent : Bool
  /-- `FH_PRESENT`. -/
  callbackPresent : Bool
  /-- `WL[0..K-1]`; `K` is its length. -/
  whitelist : List Byte
  /-- `TIMEOUT_MS`. -/
  timeoutMs : Nat
  /-- `CLKW`. -/
  clockWidth : Nat
  /-- `CNTW`. -/
  counterWidth : Nat
  /-- `SVC_ID_CAN`, the reserved identifier of the bus-address service. -/
  svcIdCan : Byte
  /-- `OPC_RQNN`. -/
  opcRqnn : Byte
  /-- `OPC_NNREL`. -/
  opcNnrel : Byte
  /-- `OPC_WRACK`. -/
  opcWrack : Byte
  /-- `OPC_CMDERR`. -/
  opcCmderr : Byte
  /-- `OPC_GRSP`. -/
  opcGrsp : Byte
  deriving DecidableEq, Repr, Inhabited

/-- A set of one field of the Configuration store by an agent outside the mode machine (10_state.md R40). The values are
whole bytes, so that one out of range can be asked for and refused. -/
inductive CfgWrite where
  | nn (v : NodeNumber)
  | canid (v : Byte)
  | mode (v : Byte)
  deriving DecidableEq, Repr, Inhabited

/-- A field of the Configuration store, as its get accessors name it (10_state.md R40). -/
inductive CfgField where
  | nn
  | canid
  | mode
  deriving DecidableEq, Repr, Inhabited

/-- What a service, a hook or the raw-frame callback does during one invocation (70_reset_and_hazards.md R252;
41_service_pipeline.md R137): any finite sequence of requests and CFG gets and sets, and an end. It is a draw under no law; a
round of self-enumeration is such behaviours over several invocations (43_enumeration.md R172, `EnumBehaviour`). -/
inductive Behaviour where
  /-- The party returns; a raw-frame or decoded-message handler answers `claimed` or not (30_encoding.md R94). -/
  | done (claimed : Bool)
  /-- The party never returns (60_exceptions.md R222). -/
  | hang
  /-- The party requests the operation these bytes spell (30_encoding.md R89) and goes on with `rest`. Where the
  operation is MCONFIRM and a bus-address service is registered, `nested` is what that service does in `enumerate()`. -/
  | request (bytes : List Byte) (nested rest : Behaviour)
  /-- The party sets a field of the Configuration store (10_state.md R40) and goes on. -/
  | setCfg (w : CfgWrite) (rest : Behaviour)
  /-- The party gets a field of the Configuration store (R252) and goes on. -/
  | getCfg (f : CfgField) (rest : Behaviour)
  /-- The party calls `Transport.next()` behind the block's back, which R253 forbids it. -/
  | takeFrame
  deriving DecidableEq, Repr, Inhabited

/-- One turn of the UserInterface in step 1 of a cycle (44_dispatcher_cycle.md R176): the action byte that
`UI.requestedAction()` answers, or `UI.run()` or the query never returning (60_exceptions.md R222). -/
inductive UiTurn where
  | answers (action : Byte)
  | hangs
  deriving DecidableEq, Repr, Inhabited

/-- FREE VALUE: the answer of a `Transport.send` no script gives (93_implementation_defined.md U11). -/
opaque Config.freeSend : Nat → Bool

/-- FREE VALUE: the milliseconds that pass before a clock sample no script gives (U14: true time never decreases). -/
opaque Config.freeTick : Nat → Nat

/-- FREE VALUE: a turn of the UI no script gives (U13). -/
opaque Config.freeTurn : Nat → UiTurn

/-- FREE VALUE: what an invoked party does where no script says (U10, U16, U17). -/
opaque Config.freeBehaviour : Nat → Behaviour

/-- FREE VALUE: the frames that enter the transport before an availability query no script speaks of (U12). -/
opaque Config.freeArrivals : Nat → List Frame

/-- FREE VALUE: what FRM reads as in the given life of the block while no frame has been drained (U9, `any value`). -/
opaque Config.freeFrm : Nat → Frame

/-- FREE VALUE: what MSG reads as in the given life of the block while no frame has been drained (U9). -/
opaque Config.freeMsg : Nat → Message

/-- FREE VALUE: what a queue slot that no put has written reads as, by the life of the block and the slot (U9). -/
opaque Config.freeSlot : Nat → Nat → Message

/-- The parameters of the machine `State.reset` stands for: the values and defaults of 00_scope.md R8 where it gives
them; no service, no UI and no callback, which R8 leaves to the construction (DESIGN CHOICE, log 1); the opcodes and
the reserved service identifier are R8's defaults from general knowledge (PRESUMED, log 24). -/
def Config.defaultParams : Params where
  capacity := 4
  services := []
  uiPresent := false
  callbackPresent := false
  whitelist := []
  timeoutMs := 30000
  clockWidth := 32
  counterWidth := 32
  svcIdCan := 0x03#8
  opcRqnn := 0x50#8
  opcNnrel := 0x51#8
  opcWrack := 0x59#8
  opcCmderr := 0x6F#8
  opcGrsp := 0xAF#8

end Sys2Proof
end

