-- ==== Sys2Proof/WellFormed.lean ====
section
/-!
DEFINITION. Which terms of `Instr` stand for a word of the table: the constraints on the length field
(30_encoding.md R84, R90, R97) and the codes ACT_NONE stands for (R92).
-/
namespace Sys2Proof

/-- A legal length of a frame or a Message, "0 to 8" (30_encoding.md R81, R86). -/
def legalLen (len : BitVec 4) : Bool := len.toNat ≤ 8

/-- The ACT codes the table's row ACT_NONE stands for: 0, and every value above 3, which step 2 treats exactly like
`none` (30_encoding.md R92). -/
def noneCode (code : Byte) : Bool := code.toNat = 0 || 3 < code.toNat

/-- The term stands for a word of the table. -/
def Instr.wellFormed (i : Instr) : Bool :=
  match i with
  | .qput m | .send m => legalLen m.len
  | .fExt _ len _ _ => legalLen len
  | .fStd _ len _ _ => legalLen len && len.toNat ≠ 0
  | .fIllegal _ _ len _ _ => !legalLen len
  | .actNone code => noneCode code
  | .reset | .process _ | .pUi | .drain _ | .housekeep _ | .fhCall | .rawdisp | .activity | .decdisp | .svcInit => true
  | .qget | .qpeek | .qavail | .qclear | .qsize | .qfull | .qputs | .qgets | .qovf | .qhwm => true
  | .minit | .mreneg | .mconfirm | .mtimeout | .mrevert | .msetslim | .museract _ | .indicate _ | .enumStart => true
  | .sendnn _ | .sendRqnn | .sendNnrel | .sendWrack | .sendCmderr _ | .sendGrsp _ _ _ => true
  | .fZero _ _ _ => true
  | .rqnn _ _ _ _ _ _ | .nnrel _ _ _ _ _ _ | .wrack _ _ _ _ _ _ | .cmderr _ _ _ _ _ _ | .grsp _ _ _ _ _ _ => true
  | .actChangeMode | .actRenegotiate | .actEnumeration | .indSlim | .indFlim | .indModechanging => true
  | .ansNotClaimed | .ansClaimed => true

end Sys2Proof
end

