-- ==== Sys2Proof/Decode.lean ====
section
/-!
DEFINITION. From the bytes of a packet to an instruction, rejecting by name, and back (30_encoding.md R81, R86, R89 to
R94, R97). The six formats share code values, so a packet says which format its bytes are in. A CMD packet is the code
byte and its operand bytes in order (R89); a FRAME packet is the 70-bit vector in nine bytes, most significant first,
the top two bits zero, with `hdr` beside it (R81); a MSG packet is the 68-bit vector in nine bytes, the top four bits
zero (R86); ACT, IND and ANS packets are one byte.
-/
namespace Sys2Proof

/-- The format of a packet and, for an operation, who requests it (30_encoding.md R80, R89). -/
inductive Port where
  /-- CMD, requested by the host between cycles. -/
  | host
  /-- CMD, a step of another operation: the block's own sequencer. -/
  | internal
  /-- FRAME, with the opaque field that travels beside the vector. -/
  | frame (hdr : Nat)
  | msg
  | act
  | ind
  | ans
  deriving DecidableEq, Repr, Inhabited

/-- One instruction as bytes. -/
structure Packet where
  port : Port
  bytes : List Byte
  deriving DecidableEq, Repr, Inhabited

/-- Why bytes are no instruction. -/
inductive DecodeError where
  /-- A CMD code not in the table of R89 (30_encoding.md R97 (iii)). -/
  | unknownCommand (code : Byte)
  /-- A `len` byte above 8 or with non-zero high bits (R97 (ii)). -/
  | illegalMessageLength (lenByte : Byte)
  /-- An operand of INDICATE, or a byte of format IND, that is no code of R93. -/
  | unknownIndication (code : Byte)
  /-- A MSG vector that is none of the five wire messages of R87. -/
  | unknownMessage
  /-- A byte of format ANS other than 0 and 1: "There is no third answer" (R94). -/
  | unknownAnswer (code : Byte)
  /-- A bit above the vector's width is set. -/
  | reservedBits
  /-- Fewer bytes than the format has. -/
  | truncated
  /-- More bytes than the format has. -/
  | trailing
  deriving DecidableEq, Repr, Inhabited

/-! ### Operand shapes of the CMD format -/

def decodeByteOperand (mk : Byte → Instr) : List Byte → Except DecodeError (Instr × List Byte)
  | a :: rest => .ok (mk a, rest)
  | [] => .error .truncated

def decodeThreeBytes (mk : Byte → Byte → Byte → Instr) : List Byte → Except DecodeError (Instr × List Byte)
  | a :: b :: c :: rest => .ok (mk a b c, rest)
  | _ => .error .truncated

/-- The `len` byte, whose high four bits must be zero and whose value is at most 8, and eight data bytes
(30_encoding.md R90, R97 (ii)). -/
def decodeMessageOperand (mk : Message → Instr) : List Byte → Except DecodeError (Instr × List Byte)
  | l :: d0 :: d1 :: d2 :: d3 :: d4 :: d5 :: d6 :: d7 :: rest =>
    if l.toNat ≤ 8 then .ok (mk ⟨BitVec.setWidth 4 l, ⟨d0, d1, d2, d3, d4, d5, d6, d7⟩⟩, rest)
    else .error (.illegalMessageLength l)
  | _ => .error .truncated

/-- The codes of `UI.indicateMode` (30_encoding.md R93). -/
def decodeIndication (c : Byte) : Option Indication :=
  match c.toNat with
  | 0 => some .slim
  | 1 => some .flim
  | 2 => some .modeChanging
  | _ => none

def decodeIndicate : List Byte → Except DecodeError (Instr × List Byte)
  | a :: rest =>
    match decodeIndication a with
    | some v => .ok (.indicate v, rest)
    | none => .error (.unknownIndication a)
  | [] => .error .truncated

/-- The operation a code byte and the bytes after it spell, and the bytes left over (30_encoding.md R89). -/
def decodeCommand : List Byte → Except DecodeError (Instr × List Byte)
  | [] => .error .truncated
  | c :: rest =>
    match c.toNat with
    | 0x00 => .ok (.reset, rest)
    | 0x01 => decodeByteOperand .process rest
    | 0x02 => .ok (.pUi, rest)
    | 0x03 => decodeByteOperand .drain rest
    | 0x04 => decodeByteOperand .housekeep rest
    | 0x05 => .ok (.fhCall, rest)
    | 0x06 => .ok (.rawdisp, rest)
    | 0x07 => .ok (.activity, rest)
    | 0x08 => .ok (.decdisp, rest)
    | 0x09 => .ok (.svcInit, rest)
    | 0x10 => decodeMessageOperand .qput rest
    | 0x11 => .ok (.qget, rest)
    | 0x12 => .ok (.qpeek, rest)
    | 0x13 => .ok (.qavail, rest)
    | 0x14 => .ok (.qclear, rest)
    | 0x15 => .ok (.qsize, rest)
    | 0x16 => .ok (.qfull, rest)
    | 0x17 => .ok (.qputs, rest)
    | 0x18 => .ok (.qgets, rest)
    | 0x19 => .ok (.qovf, rest)
    | 0x1A => .ok (.qhwm, rest)
    | 0x20 => .ok (.minit, rest)
    | 0x21 => .ok (.mreneg, rest)
    | 0x22 => .ok (.mconfirm, rest)
    | 0x23 => .ok (.mtimeout, rest)
    | 0x24 => .ok (.mrevert, rest)
    | 0x25 => .ok (.msetslim, rest)
    | 0x26 => decodeByteOperand .museract rest
    | 0x27 => decodeIndicate rest
    | 0x30 => .ok (.enumStart, rest)
    | 0x40 => decodeMessageOperand .send rest
    | 0x41 => decodeByteOperand .sendnn rest
    | 0x42 => .ok (.sendRqnn, rest)
    | 0x43 => .ok (.sendNnrel, rest)
    | 0x44 => .ok (.sendWrack, rest)
    | 0x45 => decodeByteOperand .sendCmderr rest
    | 0x46 => decodeThreeBytes .sendGrsp rest
    | _ => .error (.unknownCommand c)

/-- A request is one operation: nothing may be left over. -/
def decodeRequest (bytes : List Byte) : Except DecodeError Instr :=
  match decodeCommand bytes with
  | .ok (i, []) => .ok i
  | .ok (_, _ :: _) => .error .trailing
  | .error e => .error e

/-! ### The other formats -/

/-- The class of a frame, told by `ext` and `len` (30_encoding.md R84). -/
def frameInstr (ext rtr : Bool) (len : BitVec 4) (data : Payload) (hdr : Nat) : Instr :=
  if !legalLen len then .fIllegal ext rtr len data hdr
  else if ext then .fExt rtr len data hdr
  else if len.toNat = 0 then .fZero rtr data hdr
  else .fStd rtr len data hdr

/-- The 70-bit vector of 30_encoding.md R81: bit 69 `ext`, bit 68 `rtr`, bits 67:64 `len`, then `data[0..7]`. -/
def decodeFrame (hdr : Nat) : List Byte → Except DecodeError Instr
  | h :: d0 :: d1 :: d2 :: d3 :: d4 :: d5 :: d6 :: d7 :: [] =>
    if h.toNat < 64 then
      .ok (frameInstr (h.getLsbD 5) (h.getLsbD 4) (BitVec.setWidth 4 h) ⟨d0, d1, d2, d3, d4, d5, d6, d7⟩ hdr)
    else .error .reservedBits
  | _ :: _ :: _ :: _ :: _ :: _ :: _ :: _ :: _ :: _ :: _ => .error .trailing
  | _ => .error .truncated

/-- The 68-bit vector of 30_encoding.md R86 against the five patterns of R87 (`len` and the opcode byte). -/
def decodeMessage : List Byte → Except DecodeError Instr
  | h :: d0 :: d1 :: d2 :: d3 :: d4 :: d5 :: d6 :: d7 :: [] =>
    if 16 ≤ h.toNat then .error .reservedBits
    else match h.toNat, d0.toNat with
      | 3, 0x50 => .ok (.rqnn (d1 ++ d2) d3 d4 d5 d6 d7)
      | 3, 0x51 => .ok (.nnrel (d1 ++ d2) d3 d4 d5 d6 d7)
      | 3, 0x59 => .ok (.wrack (d1 ++ d2) d3 d4 d5 d6 d7)
      | 4, 0x6F => .ok (.cmderr (d1 ++ d2) d3 d4 d5 d6 d7)
      | 6, 0xAF => .ok (.grsp (d1 ++ d2) d3 d4 d5 d6 d7)
      | _, _ => .error .unknownMessage
  | _ :: _ :: _ :: _ :: _ :: _ :: _ :: _ :: _ :: _ :: _ => .error .trailing
  | _ => .error .truncated

/-- The ACT codes of 30_encoding.md R92; every other byte is an action step 2 treats exactly like `none`. -/
def decodeAction (a : Byte) : Instr :=
  match a.toNat with
  | 1 => .actChangeMode
  | 2 => .actRenegotiate
  | 3 => .actEnumeration
  | _ => .actNone a

def decodeIndByte (c : Byte) : Except DecodeError Instr :=
  match decodeIndication c with
  | some .slim => .ok .indSlim
  | some .flim => .ok .indFlim
  | some .modeChanging => .ok .indModechanging
  | none => .error (.unknownIndication c)

/-- The ANS codes of 30_encoding.md R94. -/
def decodeAnsByte (c : Byte) : Except DecodeError Instr :=
  match c.toNat with
  | 0 => .ok .ansNotClaimed
  | 1 => .ok .ansClaimed
  | _ => .error (.unknownAnswer c)

/-- A packet of exactly one byte. -/
def decodeOneByte (f : Byte → Except DecodeError Instr) : List Byte → Except DecodeError Instr
  | [b] => f b
  | [] => .error .truncated
  | _ => .error .trailing

/-- The instruction of a packet, or why it has none. -/
def decode (p : Packet) : Except DecodeError Instr :=
  match p.port with
  | .host => decodeRequest p.bytes
  | .internal => decodeRequest p.bytes
  | .frame hdr => decodeFrame hdr p.bytes
  | .msg => decodeMessage p.bytes
  | .act => decodeOneByte (fun a => .ok (decodeAction a)) p.bytes
  | .ind => decodeOneByte decodeIndByte p.bytes
  | .ans => decodeOneByte decodeAnsByte p.bytes

/-! ### The encoder -/

/-- `data[0..7]` as a list, in index order (20_memory.md R62). -/
def Payload.bytes (d : Payload) : List Byte := [d.d0, d.d1, d.d2, d.d3, d.d4, d.d5, d.d6, d.d7]

/-- The `len` byte of an operand: high four bits zero (30_encoding.md R90). -/
def lenByte (len : BitVec 4) : Byte := BitVec.setWidth 8 len

def Indication.code : Indication → Byte
  | .slim => 0x00#8
  | .flim => 0x01#8
  | .modeChanging => 0x02#8

/-- The first byte of a frame vector: two zero bits, `ext`, `rtr`, `len` (30_encoding.md R81). -/
def frameHead (ext rtr : Bool) (len : BitVec 4) : Byte :=
  BitVec.ofNat 8 ((if ext then 32 else 0) + (if rtr then 16 else 0) + len.toNat)

/-- Node-number assembly (30_encoding.md R88): high byte, then low byte. -/
def nnHigh (nn : NodeNumber) : Byte := BitVec.extractLsb' 8 8 nn
def nnLow (nn : NodeNumber) : Byte := BitVec.extractLsb' 0 8 nn

/-- An operation as its requester spells it: on the port of the agent that may request it, and on the block's own
port where the "who" column of 30_encoding.md R89 is `I`. -/
def command (port : Port) (code : Byte) (operands : List Byte) : Packet := ⟨port, code :: operands⟩

def framePacket (ext rtr : Bool) (len : BitVec 4) (data : Payload) (hdr : Nat) : Packet :=
  ⟨.frame hdr, frameHead ext rtr len :: data.bytes⟩

def wirePacket (len opc : Byte) (nn : NodeNumber) (d3 d4 d5 d6 d7 : Byte) : Packet :=
  ⟨.msg, [len, opc, nnHigh nn, nnLow nn, d3, d4, d5, d6, d7]⟩

/-- The packet of an instruction, written from the same tables. -/
def encode (i : Instr) : Packet :=
  match i with
  | .reset => command .host 0x00#8 []
  | .process n => command .host 0x01#8 [n]
  | .pUi => command .internal 0x02#8 []
  | .drain n => command .internal 0x03#8 [n]
  | .housekeep a => command .internal 0x04#8 [a]
  | .fhCall => command .internal 0x05#8 []
  | .rawdisp => command .internal 0x06#8 []
  | .activity => command .internal 0x07#8 []
  | .decdisp => command .internal 0x08#8 []
  | .svcInit => command .internal 0x09#8 []
  | .qput m => command .host 0x10#8 (lenByte m.len :: m.data.bytes)
  | .qget => command .host 0x11#8 []
  | .qpeek => command .host 0x12#8 []
  | .qavail => command .host 0x13#8 []
  | .qclear => command .host 0x14#8 []
  | .qsize => command .host 0x15#8 []
  | .qfull => command .host 0x16#8 []
  | .qputs => command .host 0x17#8 []
  | .qgets => command .host 0x18#8 []
  | .qovf => command .host 0x19#8 []
  | .qhwm => command .host 0x1A#8 []
  | .minit => command .host 0x20#8 []
  | .mreneg => command .host 0x21#8 []
  | .mconfirm => command .host 0x22#8 []
  | .mtimeout => command .internal 0x23#8 []
  | .mrevert => command .host 0x24#8 []
  | .msetslim => command .host 0x25#8 []
  | .museract a => command .internal 0x26#8 [a]
  | .indicate v => command .internal 0x27#8 [v.code]
  | .enumStart => command .internal 0x30#8 []
  | .send m => command .host 0x40#8 (lenByte m.len :: m.data.bytes)
  | .sendnn opc => command .host 0x41#8 [opc]
  | .sendRqnn => command .internal 0x42#8 []
  | .sendNnrel => command .internal 0x43#8 []
  | .sendWrack => command .host 0x44#8 []
  | .sendCmderr err => command .host 0x45#8 [err]
  | .sendGrsp opc svcType result => command .host 0x46#8 [opc, svcType, result]
  | .fExt rtr len data hdr => framePacket true rtr len data hdr
  | .fZero rtr data hdr => framePacket false rtr 0#4 data hdr
  | .fStd rtr len data hdr => framePacket false rtr len data hdr
  | .fIllegal ext rtr len data hdr => framePacket ext rtr len data hdr
  | .rqnn nn d3 d4 d5 d6 d7 => wirePacket 0x03#8 0x50#8 nn d3 d4 d5 d6 d7
  | .nnrel nn d3 d4 d5 d6 d7 => wirePacket 0x03#8 0x51#8 nn d3 d4 d5 d6 d7
  | .wrack nn d3 d4 d5 d6 d7 => wirePacket 0x03#8 0x59#8 nn d3 d4 d5 d6 d7
  | .cmderr nn err d4 d5 d6 d7 => wirePacket 0x04#8 0x6F#8 nn err d4 d5 d6 d7
  | .grsp nn opc svcType result d6 d7 => wirePacket 0x06#8 0xAF#8 nn opc svcType result d6 d7
  | .actNone code => ⟨.act, [code]⟩
  | .actChangeMode => ⟨.act, [0x01#8]⟩
  | .actRenegotiate => ⟨.act, [0x02#8]⟩
  | .actEnumeration => ⟨.act, [0x03#8]⟩
  | .indSlim => ⟨.ind, [0x00#8]⟩
  | .indFlim => ⟨.ind, [0x01#8]⟩
  | .indModechanging => ⟨.ind, [0x02#8]⟩
  | .ansNotClaimed => ⟨.ans, [0x00#8]⟩
  | .ansClaimed => ⟨.ans, [0x01#8]⟩

/-! ### The host's probe on words of the opcode table (log 11) -/

/-- How many bytes the operation of a code byte has (30_encoding.md R89, the column "operands"). -/
def commandLength (code : Nat) : Nat :=
  match code with
  | 0x01 | 0x03 | 0x04 | 0x26 | 0x27 | 0x41 | 0x45 => 2
  | 0x10 | 0x40 => 10
  | 0x46 => 4
  | _ => 1

/-- `n` bytes of a number, the byte of bits 7:0 first. -/
def bytesUp : Nat → Nat → List Byte
  | 0, _ => []
  | n + 1, w => BitVec.ofNat 8 w :: bytesUp n (w / 256)

/-- The nine bytes of a FRAME or MSG vector, most significant first. -/
def vectorBytes (w : Nat) : List Byte := (bytesUp 9 w).reverse

/-- The codes only the block's own sequencer executes (30_encoding.md R89, `I` without `H`). -/
def internalCode (code : Nat) : Bool :=
  match code with
  | 0x02 | 0x03 | 0x04 | 0x05 | 0x06 | 0x07 | 0x08 | 0x09 | 0x23 | 0x26 | 0x27 | 0x30 | 0x42 | 0x43 => true
  | _ => false

/-- The packet of a word given without its format: the width tells ANS (under 8 bits), MSG (68), FRAME (70); a word of
72 bits is read as the most specific row it matches, a wire message before a frame class; any other width is CMD, whose
byte 0 is bits 7:0 and whose operand bytes follow upwards. A frame word comes without its `hdr`, which may be any value
(93_implementation_defined.md U26): that it is 0 here is the model's DESIGN CHOICE (log 11). -/
def tablePacket (nbits w : Nat) : Packet :=
  if nbits < 8 then ⟨.ans, bytesUp 1 w⟩
  else if nbits = 68 then ⟨.msg, vectorBytes w⟩
  else if nbits = 70 then ⟨.frame 0, vectorBytes w⟩
  else if nbits = 72 then
    match decodeMessage (vectorBytes w) with
    | .ok _ => ⟨.msg, vectorBytes w⟩
    | .error _ => ⟨.frame 0, vectorBytes w⟩
  else ⟨if internalCode (w % 256) then .internal else .host, bytesUp (commandLength (w % 256)) w⟩

/-- The instruction the decoder reads from a word of the opcode table. -/
def decodeTableWord (nbits w : Nat) : Option Instr :=
  match decode (tablePacket nbits w) with
  | .ok i => some i
  | .error _ => none

end Sys2Proof
end

