-- ==== Sys2Proof/Machine/State.lean ====
section
/-!
DEFINITION. The state of the machine (10_state.md R47): the block's registers, the queue, the sequencer, the mode
machine and the Configuration store; the construction parameters (R8); the outside agents' scripts, the record of the
collaborator transactions and the requests to come, which are the model's own (log 7, 10, 33, 34). And `State.reset`.
-/
namespace Sys2Proof.Machine

/-- A sub-phase of `P4_DRAIN` (10_state.md R33). -/
inductive Sub where
  | fh
  | raw
  | activity
  | dec
  deriving DecidableEq, Repr, Inhabited

/-- The cycle sequencer `seq` (10_state.md R33): idle, or a phase of PROCESS, with a service index in `P3_HOUSE` and
the drained-frame count, a sub-phase and a service index in `P4_DRAIN`. -/
inductive Seq where
  | idle
  | p1Ui
  | p2Act
  | p3House (svc : Nat)
  | p4Drain (mcount : Nat) (sub : Sub) (svc : Nat)
  | p5Tmo
  deriving DecidableEq, Repr, Inhabited

/-- The ring buffer queue (10_state.md R23 to R31). `store` is the queue store `Q`: the slots that have been written,
in rising order of their index; a slot that is not listed has no value, and reads as a free one (R23, R45; log 4). -/
structure Queue where
  store : List (Nat × Message)
  head : Nat
  tail : Nat
  size : Nat
  full : Bool
  puts : Nat
  gets : Nat
  overflows : Nat
  hwm : Nat
  deriving DecidableEq, Repr, Inhabited

/-- The Configuration store's three fields (10_state.md R40); MODE 0 is SLiM and 1 is FLiM. -/
structure Cfg where
  nn : NodeNumber
  canid : BitVec 7
  mode : BitVec 1
  deriving DecidableEq, Repr, Inhabited

/-- The outside agents (00_scope.md R13; 10_state.md R46): what is known of the transport's buffer and of the clock,
and the scripts of what each agent will answer or do, first entry first. A script used up is followed by free values,
`draws` counting them (log 7). -/
structure Env where
  /-- The transport's receive buffer, oldest frame first. -/
  rx : List Frame
  /-- The frames that enter the buffer before each coming availability query. -/
  arrivals : List (List Frame)
  /-- The answers of the coming `Transport.send` transactions: `ok` is true. -/
  sends : List Bool
  /-- The coming turns of the UserInterface. -/
  turns : List UiTurn
  /-- What the parties invoked next will do, one entry per invocation. -/
  behaviours : List Behaviour
  /-- True time in milliseconds (10_state.md R41). -/
  time : Nat
  /-- The milliseconds that pass before each coming clock sample. -/
  ticks : List Nat
  /-- How many free values have been drawn. -/
  draws : Nat
  /-- After how many more UI indications and transport transactions one is made that never returns; none when every one
  returns (60_exceptions.md R222; log 9). -/
  stallsAfter : Option Nat
  deriving DecidableEq, Repr, Inhabited

/-- One collaborator transaction with an effect outside the block (45_wire_messages.md R204; decision D34). -/
inductive Event where
  /-- `Transport.send`: the bytes presented and the answer. -/
  | transportSend (presented : List Byte) (ok : Bool)
  /-- `Transport.next` with the frame. -/
  | transportNext (f : Frame)
  | uiRun
  /-- `UI.requestedAction` with its answer. -/
  | uiRequestedAction (a : Byte)
  | uiIndicateMode (v : Byte)
  | uiIndicateActivity
  /-- `Clock.now` with its sample. -/
  | clockNow (sample : Nat)
  /-- A set of a field of the Configuration store, whoever makes it. -/
  | cfgSet (w : CfgWrite)
  | svcInit (i : Nat)
  | svcHousekeep (i : Nat) (a : Byte)
  | svcRaw (i : Nat) (f : Frame)
  | svcMsg (i : Nat) (opc : Byte) (m : Message)
  | svcEnumerate (i : Nat)
  /-- The raw-frame callback `FH`. -/
  | callback (m : Message)
  /-- The answer of the raw-frame or decoded-message handler invoked last and still running. -/
  | handlerAnswer (claimed : Bool)
  deriving DecidableEq, Repr, Inhabited

/-- The answer an operation gives its requester (30_encoding.md R89, R91). -/
inductive Answer where
  /-- The operation answers nothing. -/
  | nothing
  /-- The absent result `none` of QGET and QPEEK. -/
  | absent
  /-- `some(m)`. -/
  | message (m : Message)
  /-- One bit; `ok` is true and `fail` is false. -/
  | bit (b : Bool)
  /-- An 8-bit value: `size`, `hwm`, and the action of P_UI. -/
  | byte (v : Byte)
  /-- A counter, `CNTW` bits. -/
  | counter (n : Nat)
  /-- The answers of the three CFG gets (10_state.md R40). -/
  | cfgNn (v : NodeNumber)
  | cfgCanid (v : BitVec 7)
  | cfgMode (v : BitVec 1)
  deriving DecidableEq, Repr, Inhabited

/-- What comes to the machine from outside between two operations, first entry first. -/
inductive Input where
  /-- A request for one operation, or one word of another format. -/
  | word (p : Packet)
  /-- Another agent sets a field of the Configuration store (00_scope.md R13 (7)). -/
  | cfgSet (w : CfgWrite)
  /-- The platform constructs the block with these parameters over this persisted Configuration content
  (70_reset_and_hazards.md R240, R241, R245): node number, CAN identifier, mode. -/
  | powerOn (par : Params) (nn : NodeNumber) (canid mode : Byte)
  deriving DecidableEq, Repr, Inhabited

/-- The machine's state. -/
structure State where
  /-- The construction parameters, which no operation changes. -/
  par : Params
  queue : Queue
  /-- `FRM`. -/
  frm : Frame
  /-- `MSG`. -/
  msg : Message
  /-- Whether FRM and MSG have a value: a frame has been drained since construction. Until then they read as free values
  (log 2). -/
  frameHeld : Bool
  /-- How many times the block has been constructed anew: it tells the free values of one life from another's. -/
  lives : Nat
  seq : Seq
  act : Byte
  changing : Bool
  started : Nat
  cfg : Cfg
  env : Env
  answer : Answer
  /-- The collaborator transactions so far, oldest first. -/
  trace : List Event
  inbox : List Input
  deriving DecidableEq, Repr

/-- How the machine can stop without a next state. -/
inductive Fault where
  /-- A handler, hook, callback, UI or transport transaction never returns, so the operation never completes and the
  block stays inside it for ever (60_exceptions.md R222, R261). Raised where a `Behaviour` or a `UiTurn` hangs, and by a
  UI indication or transport transaction that `Env.stallsAfter` says never returns. SAFE: the run has no next state, so
  nothing can be proved of what would follow. -/
  | neverReturns
  deriving DecidableEq, Repr

/-- Why the model refuses: the closed list of 60_exceptions.md R219, then the model's own. All are SAFE: nothing can
be proved of a run that gets there. -/
inductive Refusal where
  /-- An instruction that has no meaning yet; only Dispatch's arms say it, and no arm does. -/
  | notModelled (mnemonic : String)
  /-- PROCESS while `seq` is not IDLE, or requested by an invoked party (R220), or a request of the host while another
  operation is in progress (93_implementation_defined.md U4). Raised by PROCESS and by the admission of requests. -/
  | reentrantProcess
  /-- A frame with `len` 9 to 15 (R221). Raised at `Transport.next()` and by the frame rows. -/
  | illegalFrameLength
  /-- A QPUT or SEND operand with `len` above 8 or non-zero high bits (30_encoding.md R97 (ii)). Raised by the decoder
  and by QPUT and SEND. -/
  | illegalMessageLength
  /-- A CMD code not in the table (R97 (iii)). Raised by the decoder. -/
  | unknownCommand
  /-- An operation its requester may not request (R97 (iv), R252). Raised by the admission of requests. -/
  | internalCommand
  /-- A CANID above 127 or a MODE above 1 set in the Configuration store (10_state.md R40). -/
  | illegalConfigValue
  /-- Construction outside 70_reset_and_hazards.md R241. -/
  | illegalParameter
  /-- `Transport.next()` without availability, or by a service at all (R253). -/
  | nextWithoutAvailable
  /-- A read of FRM, MSG or a queue slot that has no value (10_state.md R45). No operation raises it: of the two
  treatments 93_implementation_defined.md U9 allows, refusal and `any value`, the model takes the second (log 2, 4). -/
  | readOfUnwritten
  /-- MODEL'S OWN: bytes that are no packet of any format (log 28). Raised by the decoder. -/
  | malformedWord
  /-- MODEL'S OWN: a handler answer when no handler is invoked (log 16). Raised by the ANS rows. -/
  | answerOutsideHandler
  deriving DecidableEq, Repr

/-- A step, a meaning or a shared operation ends in a next state, a fault or a refusal. -/
abbrev Result := Host.Outcome State Fault Refusal

/-- The queue as constructed: empty, every counter 0, no slot written (10_state.md R47). -/
def Queue.fresh : Queue :=
  { store := [], head := 0, tail := 0, size := 0, full := false, puts := 0, gets := 0, overflows := 0, hwm := 0 }

/-- What the field of FRM holds before a frame is drained: the spec gives no value; all zero, which no operation reads
(DESIGN CHOICE, log 2). -/
def blankFrame : Frame := ⟨false, false, 0#4, ⟨0#8, 0#8, 0#8, 0#8, 0#8, 0#8, 0#8, 0#8⟩, 0⟩

/-- What the field of MSG holds before a frame is drained (DESIGN CHOICE, log 2). -/
def blankMessage : Message := ⟨0#4, ⟨0#8, 0#8, 0#8, 0#8, 0#8, 0#8, 0#8, 0#8⟩⟩

/-- Outside agents of whom nothing is known: every answer to come is a free value, and every UI indication and transport
transaction returns (DESIGN CHOICE, log 8, 9). -/
def Env.unknown : Env :=
  { rx := [], arrivals := [], sends := [], turns := [], behaviours := [], time := 0, ticks := [], draws := 0,
    stallsAfter := none }

/-- The machine right after RESET (10_state.md R47; 70_reset_and_hazards.md R240) with the parameters of R8's table
and a virgin Configuration store (NN 0, CANID 0, SLiM); FRM and MSG have no value yet, and `started` is 0 where the spec
says unspecified (DESIGN CHOICE, log 1, 2, 3, 6, 8). -/
def State.reset : State :=
  { par := Config.defaultParams
    queue := Queue.fresh
    frm := blankFrame
    msg := blankMessage
    frameHeld := false
    lives := 0
    seq := .idle
    act := 0x00#8
    changing := false
    started := 0
    cfg := { nn := 0#16, canid := 0#7, mode := 0#1 }
    env := Env.unknown
    answer := .nothing
    trace := []
    inbox := [] }

end Sys2Proof.Machine
end

