-- ==== Sys2Proof/Machine/Flags.lean ====
section
/-!
DEFINITION. The block's two status flags `full` and `changing` (10_state.md R44) and what is computed from them: the
update of `full` by the queue operations (R27) and the mode state (R37).
-/
namespace Sys2Proof.Machine

/-- `full` after a put that stored an entry: set when the queue now holds `capacity` entries, else left as it was
(40_queue.md R110). -/
def fullAfterPut (capacity size : Nat) (full : Bool) : Bool :=
  if size = capacity then true else full

/-- `full` after a successful get or a clear (40_queue.md R111, R114). -/
def fullCleared : Bool := false

/-- The mode state, a function of `changing` and `CFG.MODE` (10_state.md R37). -/
def modeState (s : State) : Indication :=
  if s.changing then .modeChanging
  else if s.cfg.mode = 0#1 then .slim
  else .flim

end Sys2Proof.Machine
end

