-- ==== Sys2Proof/Machine/Operands.lean ====
section
/-!
DEFINITION. The operand forms and conversions: the arithmetic of 00_scope.md R10, the conversion of a frame to a
Message (30_encoding.md R95), what of a Message is presented to the transport (R96), the wire messages (R87, R88), the
ACT and IND codes (R92, R93), and the range checks of R90, R97, 10_state.md R40 and 70_reset_and_hazards.md R241.
-/
namespace Sys2Proof.Machine

/-- `a +_w b`. -/
def addModulo (w a b : Nat) : Nat := (a + b) % 2 ^ w

/-- `a -_w b`. -/
def subModulo (w a b : Nat) : Nat := (a % 2 ^ w + (2 ^ w - b % 2 ^ w)) % 2 ^ w

/-- The next index "modulo C" (20_memory.md R61). -/
def nextIndex (capacity i : Nat) : Nat := (i + 1) % capacity

/-- FRAME to MSG: `len` and the eight bytes; `ext`, `rtr` and `hdr` are not carried (30_encoding.md R95). -/
def frameMessage (f : Frame) : Message := ⟨f.len, f.data⟩

/-- `opc = data[0]` (30_encoding.md R83). -/
def opcodeOf (m : Message) : Byte := m.data.d0

/-- What `Transport.send` is shown: the first `len` bytes (30_encoding.md R96). -/
def presented (m : Message) : List Byte := m.data.bytes.take m.len.toNat

/-- A frame has an opcode in the sense of 30_encoding.md R83, which is to be of class F_STD (R84): not extended, not
empty. -/
def hasOpcode (f : Frame) : Bool := !f.ext && f.len.toNat ≠ 0

/-- A Message of `len` bytes whose first three are the opcode and the node number, high byte first (30_encoding.md
R87, R88); the bytes after are the caller's, and those past `len` are not presented. -/
def wireMessage (len : BitVec 4) (opc : Byte) (nn : NodeNumber) (d3 d4 d5 d6 d7 : Byte) : Message :=
  ⟨len, ⟨opc, nnHigh nn, nnLow nn, d3, d4, d5, d6, d7⟩⟩

/-- The three-byte shape of SENDNN (45_wire_messages.md R196). -/
def shortMessage (opc : Byte) (nn : NodeNumber) : Message := wireMessage 3#4 opc nn 0#8 0#8 0#8 0#8 0#8

/-- The four-byte command-error (45_wire_messages.md R200). -/
def errorMessage (opc : Byte) (nn : NodeNumber) (err : Byte) : Message := wireMessage 4#4 opc nn err 0#8 0#8 0#8 0#8

/-- The six-byte generic-response (45_wire_messages.md R201). -/
def responseMessage (opc : Byte) (nn : NodeNumber) (answered svcType result : Byte) : Message :=
  wireMessage 6#4 opc nn answered svcType result 0#8 0#8

/-- ACT codes (30_encoding.md R92). -/
def actNoneCode : Byte := 0x00#8
def actChangeModeCode : Byte := 0x01#8
def actRenegotiateCode : Byte := 0x02#8
def actEnumerationCode : Byte := 0x03#8

/-- The indication of a stable mode: IND codes 0 and 1 are the values of `CFG.MODE` (30_encoding.md R93). -/
def stableIndication (mode : BitVec 1) : Indication := if mode = 0#1 then .slim else .flim

/-- The range of a set of the Configuration store (10_state.md R40). -/
def legalCfgWrite (w : CfgWrite) : Bool :=
  match w with
  | .nn _ => true
  | .canid v => v.toNat ≤ 127
  | .mode v => v.toNat ≤ 1

/-- Legal parameters and legal persisted Configuration content (70_reset_and_hazards.md R241). -/
def legalConstruction (p : Params) (canid mode : Byte) : Bool :=
  1 ≤ p.capacity && p.capacity ≤ 255 && p.services.length ≤ 255 && p.whitelist.length ≤ 255 &&
    p.timeoutMs < 2 ^ p.clockWidth && 1 ≤ p.counterWidth && canid.toNat ≤ 127 && mode.toNat ≤ 1

/-- The refusal that stands for bytes that are no instruction (60_exceptions.md R219; log 28). -/
def refusalOf (e : DecodeError) : Refusal :=
  match e with
  | .unknownCommand _ => .unknownCommand
  | .illegalMessageLength _ => .illegalMessageLength
  | .unknownIndication _ => .malformedWord
  | .unknownMessage => .malformedWord
  | .unknownAnswer _ => .malformedWord
  | .reservedBits => .malformedWord
  | .truncated => .malformedWord
  | .trailing => .malformedWord

end Sys2Proof.Machine
end

