-- ==== Sys2Proof/Machine/Ops.lean ====
section
/-!
DEFINITION. The named operations over the state: sequencing, the draws of the outside agents, the collaborator
transactions (10_state.md R38 to R41), the queue store and the queue (40_queue.md), the registers FRM and MSG, and who
may request an operation (30_encoding.md R89). The block has no exceptions, so no operation takes one and none returns
from one (60_exceptions.md R210, R226); the nearest is the firing of MTIMEOUT (R225), `timeoutCheck` in Mode.lean.
-/
namespace Sys2Proof.Machine

/-- Go on with the next state, or stop. -/
def andThen {α β : Type} (r : Host.Outcome α Fault Refusal) (k : α → Host.Outcome β Fault Refusal) :
    Host.Outcome β Fault Refusal :=
  match r with
  | .next a => k a
  | .fault f => .fault f
  | .refused e => .refused e

/-- A UI indication or a transport transaction is made: it returns, or it is the one that never does (60_exceptions.md
R222). -/
def reach (s : State) : Result :=
  match s.env.stallsAfter with
  | none => .next s
  | some 0 => .fault .neverReturns
  | some (n + 1) => .next { s with env := { s.env with stallsAfter := some n } }

/-- The operation has completed and gives its requester this answer (30_encoding.md R91). -/
def answering (a : Answer) (s : State) : State := { s with answer := a }

/-- An operation that answers nothing. -/
def quietly (op : State → Result) (s : State) : Result := andThen (op s) fun t => .next (answering .nothing t)

/-- A collaborator transaction happens (45_wire_messages.md R204). -/
def emit (e : Event) (s : State) : State := { s with trace := s.trace ++ [e] }

/-- `seq <- p` (00_scope.md R11). -/
def atPhase (p : Seq) (s : State) : State := { s with seq := p }

/-- An operation that is a step of another one ends with the sequencer where it began (10_state.md R33: only PROCESS
moves `seq` from phase to phase). -/
def keepingPhase (op : State → Result) (s : State) : Result :=
  andThen (op s) fun t => .next (atPhase s.seq t)

/-- The drained-frame count the sequencer carries; 0 outside `P4_DRAIN` (10_state.md R33). -/
def drainedCount (s : State) : Nat :=
  match s.seq with
  | .p4Drain mcount _ _ => mcount
  | _ => 0

/-! ### Draws: the next entry of an agent's script, or a free value (log 7) -/

def drawSend (e : Env) : Bool × Env :=
  match e.sends with
  | b :: rest => (b, { e with sends := rest })
  | [] => (Config.freeSend e.draws, { e with draws := e.draws + 1 })

def drawTick (e : Env) : Nat × Env :=
  match e.ticks with
  | d :: rest => (d, { e with ticks := rest })
  | [] => (Config.freeTick e.draws, { e with draws := e.draws + 1 })

def drawTurn (e : Env) : UiTurn × Env :=
  match e.turns with
  | t :: rest => (t, { e with turns := rest })
  | [] => (Config.freeTurn e.draws, { e with draws := e.draws + 1 })

def drawBehaviour (e : Env) : Behaviour × Env :=
  match e.behaviours with
  | b :: rest => (b, { e with behaviours := rest })
  | [] => (Config.freeBehaviour e.draws, { e with draws := e.draws + 1 })

def drawArrivals (e : Env) : List Frame × Env :=
  match e.arrivals with
  | fs :: rest => (fs, { e with arrivals := rest })
  | [] => (Config.freeArrivals e.draws, { e with draws := e.draws + 1 })

/-! ### Collaborator transactions -/

/-- `Clock.now()` (10_state.md R41): time passes, and the sample is true time modulo 2^CLKW. -/
def clockNow (s : State) : Nat × State :=
  let tick := drawTick s.env
  let now := s.env.time + tick.1
  let sample := now % 2 ^ s.par.clockWidth
  (sample, emit (.clockNow sample) { s with env := { tick.2 with time := now } })

/-- `Transport.send(m)` (10_state.md R38; 30_encoding.md R96): the first `len` bytes are presented, the transport
answers `ok` or `fail`, and nothing of the block changes. -/
def transportSend (m : Message) (s : State) : Host.Outcome (Bool × State) Fault Refusal :=
  andThen (reach s) fun t =>
    let draw := drawSend t.env
    .next (draw.1, emit (.transportSend (presented m) draw.1) { t with env := draw.2 })

/-- `Transport.available()` (10_state.md R38): frames may have entered since the last query; the query itself changes
nothing and is no event (decision D34). -/
def transportAvailable (s : State) : Host.Outcome (Bool × State) Fault Refusal :=
  andThen (reach s) fun t =>
    let draw := drawArrivals t.env
    let rx := draw.2.rx ++ draw.1
    .next (!rx.isEmpty, { t with env := { draw.2 with rx := rx } })

/-- `Transport.next()` (10_state.md R38): removes and answers one frame; refused without one (R253), and for a frame
whose length is no length (60_exceptions.md R221). Which waiting frame comes first is the transport's to say (20_memory.md
R74): that it is the one at the head of `env.rx`, the oldest, is the model's DESIGN CHOICE (log 38). -/
def transportNext (s : State) : Host.Outcome (Frame × State) Fault Refusal :=
  andThen (reach s) fun t =>
    match t.env.rx with
    | [] => .refused .nextWithoutAvailable
    | f :: rest =>
      if legalLen f.len then .next (f, emit (.transportNext f) { t with env := { t.env with rx := rest } })
      else .refused .illegalFrameLength

/-- `INDICATE v` (42_mode_fsm.md R150). -/
def indicateMode (v : Indication) (s : State) : Result :=
  if s.par.uiPresent then andThen (reach s) fun t => .next (emit (.uiIndicateMode v.code) t) else .next s

/-- `ACTIVITY` (44_dispatcher_cycle.md R182). -/
def indicateActivity (s : State) : Result :=
  if s.par.uiPresent then andThen (reach s) fun t => .next (emit .uiIndicateActivity t) else .next s

/-- A set of a field of the Configuration store (10_state.md R40), by the block or by another agent. -/
def storeCfg (w : CfgWrite) (s : State) : State :=
  emit (.cfgSet w)
    (match w with
      | .nn v => { s with cfg := { s.cfg with nn := v } }
      | .canid v => { s with cfg := { s.cfg with canid := BitVec.setWidth 7 v } }
      | .mode v => { s with cfg := { s.cfg with mode := BitVec.setWidth 1 v } })

/-- A set by an agent outside the mode machine: refused out of range (10_state.md R40). -/
def setCfg (w : CfgWrite) (s : State) : Result :=
  if legalCfgWrite w then .next (storeCfg w s) else .refused .illegalConfigValue

/-- A get of a field of the Configuration store by an invoked party: a pure read (20_memory.md R65), and no event
(decision D34). -/
def cfgAnswer (f : CfgField) (s : State) : Answer :=
  match f with
  | .nn => .cfgNn s.cfg.nn
  | .canid => .cfgCanid s.cfg.canid
  | .mode => .cfgMode s.cfg.mode

/-! ### The queue store and the queue -/

/-- `MemRead(i, 1)` on the queue store; a slot never written is not listed (20_memory.md R60; 10_state.md R45). -/
def readSlot (i : Nat) : List (Nat × Message) → Option Message
  | [] => none
  | (j, m) :: rest => if i = j then some m else readSlot i rest

/-- `MemWrite(i, 1, m)` on the queue store, keeping the slots in rising order. -/
def writeSlot (i : Nat) (m : Message) : List (Nat × Message) → List (Nat × Message)
  | [] => [(i, m)]
  | (j, n) :: rest =>
    if i < j then (i, m) :: (j, n) :: rest
    else if i = j then (i, m) :: rest
    else (j, n) :: writeSlot i m rest

/-- Every index of the rest is above `i`, and so on up the list. -/
def slotsAbove (i : Nat) : List (Nat × Message) → Bool
  | [] => true
  | (j, _) :: rest => i < j && slotsAbove j rest

/-- The canonical form of the queue store: indices strictly rising. -/
def storeWellFormed : List (Nat × Message) → Bool
  | [] => true
  | (i, _) :: rest => slotsAbove i rest

/-- The queue after a put that found room (40_queue.md R110). -/
def queueAdd (p : Params) (m : Message) (q : Queue) : Queue :=
  { q with
    store := writeSlot q.tail m q.store
    tail := nextIndex p.capacity q.tail
    size := q.size + 1
    full := fullAfterPut p.capacity (q.size + 1) q.full
    puts := addModulo p.counterWidth q.puts 1
    hwm := if q.hwm < q.size + 1 then q.size + 1 else q.hwm }

/-- The queue after a put that found none: "reject newest" (40_queue.md R110). -/
def queueReject (p : Params) (q : Queue) : Queue := { q with overflows := addModulo p.counterWidth q.overflows 1 }

/-- QPUT on the queue (40_queue.md R110): "not full" is the flag `full`. -/
def queuePut (p : Params) (m : Message) (q : Queue) : Queue := if q.full then queueReject p q else queueAdd p m q

/-- The read of `Q[head]` by QGET and QPEEK. A slot that no put has written reads as a free value
(93_implementation_defined.md U9; log 4); no run from reset gets there. -/
def queueFront (life : Nat) (q : Queue) : Message :=
  match readSlot q.head q.store with
  | some m => m
  | none => Config.freeSlot life q.head

/-- The queue after a successful QGET (40_queue.md R111). -/
def queueDrop (p : Params) (q : Queue) : Queue :=
  { q with
    head := nextIndex p.capacity q.head
    size := q.size - 1
    full := fullCleared
    gets := addModulo p.counterWidth q.gets 1 }

/-- QGET on the queue (40_queue.md R111): the answer and the queue after it. -/
def queueGet (p : Params) (life : Nat) (q : Queue) : Answer × Queue :=
  if q.size = 0 then (.absent, q) else (.message (queueFront life q), queueDrop p q)

/-- QPEEK on the queue (40_queue.md R112). -/
def queuePeek (life : Nat) (q : Queue) : Answer :=
  if q.size = 0 then .absent else .message (queueFront life q)

/-- QCLEAR on the queue (40_queue.md R114). -/
def queueClear (q : Queue) : Queue := { q with head := 0, tail := 0, size := 0, full := fullCleared }

/-! ### FRM and MSG -/

/-- `FRM <- f; MSG <- convert(f)` (44_dispatcher_cycle.md R180). -/
def holdFrame (f : Frame) (s : State) : State := { s with frm := f, msg := frameMessage f, frameHeld := true }

/-- A read of FRM; before the first frame is drained it has no value, and reads as a free one (10_state.md R21, R45;
93_implementation_defined.md U9; log 2). -/
def readFrm (s : State) : Frame := if s.frameHeld then s.frm else Config.freeFrm s.lives

/-- A read of MSG, free before the first frame is drained (10_state.md R22, R45; U9; log 2). -/
def readMsg (s : State) : Message := if s.frameHeld then s.msg else Config.freeMsg s.lives

/-! ### Who may request an operation (30_encoding.md R89, the column "who") -/

/-- The operations the host may request between cycles (`H`). -/
def hostMay (i : Instr) : Bool :=
  match i with
  | .reset | .process _ => true
  | .qput _ | .qget | .qpeek | .qavail | .qclear | .qsize | .qfull | .qputs | .qgets | .qovf | .qhwm => true
  | .minit | .mreneg | .mconfirm | .mrevert | .msetslim => true
  | .send _ | .sendnn _ | .sendWrack | .sendCmderr _ | .sendGrsp _ _ _ => true
  | .pUi | .drain _ | .housekeep _ | .fhCall | .rawdisp | .activity | .decdisp | .svcInit => false
  | .mtimeout | .museract _ | .indicate _ | .enumStart | .sendRqnn | .sendNnrel => false
  | .fExt _ _ _ _ | .fZero _ _ _ | .fStd _ _ _ _ | .fIllegal _ _ _ _ _ => false
  | .rqnn _ _ _ _ _ _ | .nnrel _ _ _ _ _ _ | .wrack _ _ _ _ _ _ | .cmderr _ _ _ _ _ _ | .grsp _ _ _ _ _ _ => false
  | .actNone _ | .actChangeMode | .actRenegotiate | .actEnumeration => false
  | .indSlim | .indFlim | .indModechanging | .ansNotClaimed | .ansClaimed => false

/-- The operations an invoked party may request (`S`; 70_reset_and_hazards.md R252). -/
def serviceMay (i : Instr) : Bool :=
  match i with
  | .qput _ | .qget | .qpeek | .qavail | .qclear | .qsize | .qfull | .qputs | .qgets | .qovf | .qhwm => true
  | .minit | .mreneg | .mconfirm | .mrevert | .msetslim => true
  | .send _ | .sendnn _ | .sendWrack | .sendCmderr _ | .sendGrsp _ _ _ => true
  | .reset | .process _ => false
  | .pUi | .drain _ | .housekeep _ | .fhCall | .rawdisp | .activity | .decdisp | .svcInit => false
  | .mtimeout | .museract _ | .indicate _ | .enumStart | .sendRqnn | .sendNnrel => false
  | .fExt _ _ _ _ | .fZero _ _ _ | .fStd _ _ _ _ | .fIllegal _ _ _ _ _ => false
  | .rqnn _ _ _ _ _ _ | .nnrel _ _ _ _ _ _ | .wrack _ _ _ _ _ _ | .cmderr _ _ _ _ _ _ | .grsp _ _ _ _ _ _ => false
  | .actNone _ | .actChangeMode | .actRenegotiate | .actEnumeration => false
  | .indSlim | .indFlim | .indModechanging | .ansNotClaimed | .ansClaimed => false

/-- The refusal of a request whose bytes are no operation. A code marked `I` only is refused as that whatever its operands
(30_encoding.md R97 (iv)); other bytes by what is wrong with them. -/
def requestRefusal (bytes : List Byte) (e : DecodeError) : Refusal :=
  match bytes with
  | c :: _ => if internalCode c.toNat then .internalCommand else refusalOf e
  | [] => refusalOf e

/-- A request of the host is admitted when no operation is in progress (93_implementation_defined.md U4) and the host
may request it (30_encoding.md R97 (iv)). That the first check comes first is the model's DESIGN CHOICE (log 17). -/
def admitHost (i : Instr) (s : State) : Option Refusal :=
  if s.seq ≠ .idle then some .reentrantProcess
  else if hostMay i then none
  else some .internalCommand

/-- A request of an invoked party is admitted when R252 lists it; PROCESS is re-entry (60_exceptions.md R220). -/
def admitService (i : Instr) : Option Refusal :=
  match i with
  | .process _ => some .reentrantProcess
  | _ => if serviceMay i then none else some .internalCommand

end Sys2Proof.Machine
end

