-- ==== Sys2Proof/Machine/Wire.lean ====
section
/-!
DEFINITION. Sending (45_wire_messages.md R195 to R201): the frame-send primitive, the helpers that address a message to
the module's own node number, and the five wire messages as rows of their own (log 13).
-/
namespace Sys2Proof.Machine

/-- SENDNN (R196): the three-byte message with the node number read when it is built. -/
def sendOwn (opc : Byte) (s : State) : Host.Outcome (Bool × State) Fault Refusal :=
  transportSend (shortMessage opc s.cfg.nn) s

/-- The requester of a SEND gets the transport's answer (R195). -/
def answeringSend (r : Host.Outcome (Bool × State) Fault Refusal) : Result :=
  andThen r fun p => .next (answering (.bit p.1) p.2)

/-- SEND (R195); a length above 8 is refused (30_encoding.md R97 (ii)). -/
def execSend (m : Message) (s : State) : Result :=
  if legalLen m.len then answeringSend (transportSend m s) else .refused .illegalMessageLength

/-- SENDNN (R196). -/
def execSendnn (opc : Byte) (s : State) : Result := answeringSend (sendOwn opc s)

/-- SEND_RQNN (R197). -/
def execSendRqnn (s : State) : Result := answeringSend (sendOwn s.par.opcRqnn s)

/-- SEND_NNREL (R198). -/
def execSendNnrel (s : State) : Result := answeringSend (sendOwn s.par.opcNnrel s)

/-- SEND_WRACK (R199). -/
def execSendWrack (s : State) : Result := answeringSend (sendOwn s.par.opcWrack s)

/-- SEND_CMDERR (R200). -/
def execSendCmderr (err : Byte) (s : State) : Result :=
  answeringSend (transportSend (errorMessage s.par.opcCmderr s.cfg.nn err) s)

/-- SEND_GRSP (R201). -/
def execSendGrsp (opc svcType result : Byte) (s : State) : Result :=
  answeringSend (transportSend (responseMessage s.par.opcGrsp s.cfg.nn opc svcType result) s)

/-! The wire messages (30_encoding.md R87): the message with the node number it carries is handed to the transport. -/

/-- RQNN (R197). -/
def execRqnn (nn : NodeNumber) (d3 d4 d5 d6 d7 : Byte) (s : State) : Result :=
  answeringSend (transportSend (wireMessage 3#4 s.par.opcRqnn nn d3 d4 d5 d6 d7) s)

/-- NNREL (R198). -/
def execNnrel (nn : NodeNumber) (d3 d4 d5 d6 d7 : Byte) (s : State) : Result :=
  answeringSend (transportSend (wireMessage 3#4 s.par.opcNnrel nn d3 d4 d5 d6 d7) s)

/-- WRACK (R199). -/
def execWrack (nn : NodeNumber) (d3 d4 d5 d6 d7 : Byte) (s : State) : Result :=
  answeringSend (transportSend (wireMessage 3#4 s.par.opcWrack nn d3 d4 d5 d6 d7) s)

/-- CMDERR (R200). -/
def execCmderr (nn : NodeNumber) (err d4 d5 d6 d7 : Byte) (s : State) : Result :=
  answeringSend (transportSend (wireMessage 4#4 s.par.opcCmderr nn err d4 d5 d6 d7) s)

/-- GRSP (R201). -/
def execGrsp (nn : NodeNumber) (opc svcType result d6 d7 : Byte) (s : State) : Result :=
  answeringSend (transportSend (wireMessage 6#4 s.par.opcGrsp nn opc svcType result d6 d7) s)

end Sys2Proof.Machine
end

