-- ==== Sys2Proof/Machine/Mode.lean ====
section
/-!
DEFINITION. The mode machine (42_mode_fsm.md). Every transition is total (R154; decision D21) and its effects are in
the order of its rule's pseudocode (decision D18; log 27). MCONFIRM stands in Pipeline.lean, since it invokes a service.
-/
namespace Sys2Proof.Machine

/-- MINIT and MRENEG (R151, R152): indicate, request a node number with the answer discarded, sample the clock, enter
ModeChanging. -/
def negotiate (s : State) : Result :=
  andThen (indicateMode .modeChanging s) fun t =>
  andThen (sendOwn t.par.opcRqnn t) fun r =>
    let sample := clockNow r.2
    .next { sample.2 with started := sample.1, changing := true }

/-- MSETSLIM (R157): the three sets, the flag, the indication; nothing is sent. -/
def setSlim (s : State) : Result :=
  let cleared := storeCfg (.canid 0x00#8) (storeCfg (.mode 0x00#8) (storeCfg (.nn 0x0000#16) s))
  indicateMode .slim { cleared with changing := false }

/-- MREVERT (R156): release the node number still held, the answer discarded, then MSETSLIM. -/
def revert (s : State) : Result := andThen (sendOwn s.par.opcNnrel s) fun r => setSlim r.2

/-- MTIMEOUT (R155): the clock is sampled only in ModeChanging, the elapsed time is modulo 2^CLKW, and when it has
reached TIMEOUT_MS the mode Configuration now records is indicated and the flag cleared. -/
def timeoutCheck (s : State) : Result :=
  if s.changing then
    let sample := clockNow s
    if s.par.timeoutMs ≤ subModulo s.par.clockWidth sample.1 s.started then
      andThen (indicateMode (stableIndication s.cfg.mode) sample.2) fun t => .next { t with changing := false }
    else .next sample.2
  else .next s

/-- MUSERACT (R158): `CFG.MODE` selects what `change-mode` does; every other action but `renegotiate` is ignored. -/
def applyAction (a : Byte) (s : State) : Result :=
  if a = actChangeModeCode then (if s.cfg.mode = 0#1 then negotiate s else revert s)
  else if a = actRenegotiateCode then negotiate s
  else .next s

/-- INDICATE (R150). -/
def execIndicate (v : Indication) (s : State) : Result := quietly (indicateMode v) s

/-- MINIT (R151). -/
def execMinit (s : State) : Result := quietly negotiate s

/-- MRENEG (R152). -/
def execMreneg (s : State) : Result := quietly negotiate s

/-- MTIMEOUT (R155). -/
def execMtimeout (s : State) : Result := quietly timeoutCheck s

/-- MREVERT (R156). -/
def execMrevert (s : State) : Result := quietly revert s

/-- MSETSLIM (R157). -/
def execMsetslim (s : State) : Result := quietly setSlim s

/-- MUSERACT (R158). -/
def execMuseract (a : Byte) (s : State) : Result := quietly (applyAction a) s

end Sys2Proof.Machine
end

