-- ==== Sys2Proof/Machine/Queue.lean ====
section
/-!
DEFINITION. The meanings of the queue operations (40_queue.md R110 to R120). The queue is a leaf: nothing else of the
block changes (R122).
-/
namespace Sys2Proof.Machine

/-- QPUT (R110); a length above 8 is refused (30_encoding.md R97 (ii)). -/
def execQput (m : Message) (s : State) : Result :=
  if legalLen m.len then .next (answering .nothing { s with queue := queuePut s.par m s.queue })
  else .refused .illegalMessageLength

/-- QGET (R111). -/
def execQget (s : State) : Result :=
  let r := queueGet s.par s.lives s.queue
  .next (answering r.1 { s with queue := r.2 })

/-- QPEEK (R112). -/
def execQpeek (s : State) : Result :=
  .next (answering (queuePeek s.lives s.queue) s)

/-- QAVAIL (R113): "true iff `size > 0`". -/
def execQavail (s : State) : Result := .next (answering (.bit (decide (0 < s.queue.size))) s)

/-- QCLEAR (R114). -/
def execQclear (s : State) : Result := .next (answering .nothing { s with queue := queueClear s.queue })

/-- QSIZE (R115), zero-extended to 8 bits (30_encoding.md R91). -/
def execQsize (s : State) : Result := .next (answering (.byte (BitVec.ofNat 8 s.queue.size)) s)

/-- QFULL (R116). -/
def execQfull (s : State) : Result := .next (answering (.bit s.queue.full) s)

/-- QPUTS (R117). -/
def execQputs (s : State) : Result := .next (answering (.counter s.queue.puts) s)

/-- QGETS (R118). -/
def execQgets (s : State) : Result := .next (answering (.counter s.queue.gets) s)

/-- QOVF (R119). -/
def execQovf (s : State) : Result := .next (answering (.counter s.queue.overflows) s)

/-- QHWM (R120), zero-extended to 8 bits. -/
def execQhwm (s : State) : Result := .next (answering (.byte (BitVec.ofNat 8 s.queue.hwm)) s)

end Sys2Proof.Machine
end

