-- ==== Sys2Proof/Machine/Pipeline.lean ====
section
/-!
DEFINITION. Invoking services and the raw-frame callback (70_reset_and_hazards.md R252), the enumeration hand-off
(43_enumeration.md R170) with MCONFIRM, which makes it (42_mode_fsm.md R153), and the service pipeline
(41_service_pipeline.md R130 to R138).
-/
namespace Sys2Proof.Machine

/-! ### The hand-off -/

/-- The least index from `i` on whose service has identifier `id`. -/
def findFrom (id : Byte) (i : Nat) : List Service → Option Nat
  | [] => none
  | svc :: rest => if svc.id = id then some i else findFrom id (i + 1) rest

/-- `FIND(id)` (41_service_pipeline.md R138): the first registered service with the identifier. -/
def findService (id : Byte) (services : List Service) : Option Nat := findFrom id 0 services

/-- ENUM_START (43_enumeration.md R170); `enumerate` is the invocation of the service's entry point. -/
def handOff (enumerate : State → Result) (s : State) : Result :=
  match findService s.par.svcIdCan s.par.services with
  | some i => enumerate (emit (.svcEnumerate i) s)
  | none => .next s

/-- MCONFIRM (42_mode_fsm.md R153). -/
def confirm (enumerate : State → Result) (s : State) : Result :=
  andThen (indicateMode .flim (storeCfg (.mode 0x01#8) { s with changing := false })) (handOff enumerate)

/-! ### Invocations -/

/-- The operations of R252, executed at once and completely for the party that requests them; MCONFIRM's hand-off
invokes `enumerate`. Every other operation is refused (`admitService` has already turned it away). -/
def serviceOperation (enumerate : State → Result) (i : Instr) (s : State) : Result :=
  match i with
  | .qput m => execQput m s
  | .qget => execQget s
  | .qpeek => execQpeek s
  | .qavail => execQavail s
  | .qclear => execQclear s
  | .qsize => execQsize s
  | .qfull => execQfull s
  | .qputs => execQputs s
  | .qgets => execQgets s
  | .qovf => execQovf s
  | .qhwm => execQhwm s
  | .minit => execMinit s
  | .mreneg => execMreneg s
  | .mconfirm => quietly (confirm enumerate) s
  | .mrevert => execMrevert s
  | .msetslim => execMsetslim s
  | .send m => execSend m s
  | .sendnn opc => execSendnn opc s
  | .sendWrack => execSendWrack s
  | .sendCmderr err => execSendCmderr err s
  | .sendGrsp opc svcType result => execSendGrsp opc svcType result s
  | _ => .refused .internalCommand

/-- A request of an invoked party: decoded, admitted, executed (30_encoding.md R97 (ii) to (v)). -/
def serviceRequest (enumerate : State → Result) (bytes : List Byte) (s : State) : Result :=
  match decodeRequest bytes with
  | .error e => .refused (requestRefusal bytes e)
  | .ok i =>
    match admitService i with
    | some r => .refused r
    | none => serviceOperation enumerate i s

/-- What the invoked party does, and the answer it ends with (41_service_pipeline.md R137). Each request takes effect
before the next (20_memory.md R69). -/
def runBehaviour : Behaviour → State → Host.Outcome (Bool × State) Fault Refusal
  | .done claimed, s => .next (claimed, s)
  | .hang, _ => .fault .neverReturns
  | .takeFrame, _ => .refused .nextWithoutAvailable
  | .setCfg w rest, s => andThen (setCfg w s) fun t => runBehaviour rest t
  | .getCfg f rest, s => runBehaviour rest (answering (cfgAnswer f s) s)
  | .request bytes nested rest, s =>
    andThen (serviceRequest (fun t => andThen (runBehaviour nested t) fun r => .next r.2) bytes s) fun t =>
      runBehaviour rest t

/-- One invocation: the party's behaviour is drawn and run. -/
def invoke (s : State) : Host.Outcome (Bool × State) Fault Refusal :=
  let draw := drawBehaviour s.env
  runBehaviour draw.1 { s with env := draw.2 }

/-- An invocation whose answer the block does not use. -/
def invokeHook (s : State) : Result := andThen (invoke s) fun r => .next r.2

/-- An invocation of a handler, which answers claimed or not. -/
def invokeHandler (s : State) : Host.Outcome (Bool × State) Fault Refusal :=
  andThen (invoke s) fun r => .next (r.1, emit (.handlerAnswer r.1) r.2)

/-! ### The passes over the service table; `n` services from index `i` on -/

/-- The initializers in registration order (41_service_pipeline.md R130). -/
def initFrom : Nat → Nat → State → Result
  | 0, _, s => .next s
  | n + 1, i, s => andThen (invokeHook (emit (.svcInit i) s)) (initFrom n (i + 1))

/-- The housekeeping hooks in registration order (R131). -/
def housekeepFrom (a : Byte) : Nat → Nat → State → Result
  | 0, _, s => .next s
  | n + 1, i, s =>
    andThen (invokeHook (emit (.svcHousekeep i a) (atPhase (.p3House i) s))) (housekeepFrom a n (i + 1))

/-- Where the sequencer goes when a handler of a pass answers (R133, R134, R136): a claim ends the pass, another answer
goes on to the next service, and after the last one the pass ends. The raw pass ends in the activity indication, the
decoded pass in the next frame. -/
def seqAfterAnswer (services : Nat) (claimed : Bool) (p : Seq) : Option Seq :=
  match p with
  | .p4Drain mcount .raw i =>
    some (if claimed || services ≤ i + 1 then .p4Drain mcount .activity 0 else .p4Drain mcount .raw (i + 1))
  | .p4Drain mcount .dec i =>
    some (if claimed || services ≤ i + 1 then .p4Drain mcount .fh 0 else .p4Drain mcount .dec (i + 1))
  | _ => none

/-- A handler's answer moves the sequencer; when no handler is invoked there is none to answer (log 16). -/
def passAnswer (claimed : Bool) (s : State) : Result :=
  match seqAfterAnswer s.par.services.length claimed s.seq with
  | some p => .next (atPhase p s)
  | none => .refused .answerOutsideHandler

/-- The raw-frame handlers in registration order until one claims (R133). -/
def rawFrom (mcount : Nat) : Nat → Nat → State → Result
  | 0, _, s => .next s
  | n + 1, i, s =>
    andThen (invokeHandler (emit (.svcRaw i (readFrm s)) (atPhase (.p4Drain mcount .raw i) s))) fun r =>
    andThen (passAnswer r.1 (atPhase (.p4Drain mcount .raw i) r.2)) fun t =>
      if r.1 then .next t else rawFrom mcount n (i + 1) t

/-- The decoded-message handlers in registration order until one claims (R134). -/
def decodedFrom (mcount : Nat) : Nat → Nat → State → Result
  | 0, _, s => .next s
  | n + 1, i, s =>
    andThen (invokeHandler (emit (.svcMsg i (opcodeOf (readMsg s)) (readMsg s)) (atPhase (.p4Drain mcount .dec i) s))) fun r =>
    andThen (passAnswer r.1 (atPhase (.p4Drain mcount .dec i) r.2)) fun t =>
      if r.1 then .next t else decodedFrom mcount n (i + 1) t

/-! ### The operations of the pipeline -/

/-- SVC_INIT (R130). -/
def initServices (s : State) : Result := initFrom s.par.services.length 0 s

/-- HOUSEKEEP (R131). -/
def housekeep (a : Byte) (s : State) : Result := housekeepFrom a s.par.services.length 0 s

/-- Whether the whitelist passes a frame to the callback (R132): an empty list passes every frame, another only a frame
that has an opcode and whose opcode is listed. -/
def whitelistPasses (p : Params) (f : Frame) (m : Message) : Bool :=
  p.whitelist.isEmpty || (hasOpcode f && p.whitelist.contains (opcodeOf m))

/-- FH_CALL (R132). -/
def callbackStep (s : State) : Result :=
  if s.par.callbackPresent && whitelistPasses s.par (readFrm s) (readMsg s) then
    invokeHook (emit (.callback (readMsg s)) (atPhase (.p4Drain (drainedCount s) .fh 0) s))
  else .next s

/-- RAWDISP (R133). -/
def rawPass (s : State) : Result := rawFrom (drainedCount s) s.par.services.length 0 s

/-- DECDISP (R134): nothing for a frame that is not of class F_STD (30_encoding.md R98 (ii)). -/
def decodedPass (s : State) : Result :=
  if s.par.services.isEmpty then .next s
  else if hasOpcode (readFrm s) then decodedFrom (drainedCount s) s.par.services.length 0 s
  else .next s

/-- SVC_INIT (R130). -/
def execSvcInit (s : State) : Result := quietly initServices s

/-- HOUSEKEEP (R131). -/
def execHousekeep (a : Byte) (s : State) : Result := quietly (keepingPhase (housekeep a)) s

/-- FH_CALL (R132). -/
def execFhCall (s : State) : Result := quietly (keepingPhase callbackStep) s

/-- RAWDISP (R133). -/
def execRawdisp (s : State) : Result := quietly (keepingPhase rawPass) s

/-- DECDISP (R134). -/
def execDecdisp (s : State) : Result := quietly (keepingPhase decodedPass) s

/-- ENUM_START (43_enumeration.md R170). -/
def execEnumStart (s : State) : Result := quietly (handOff invokeHook) s

/-- MCONFIRM (42_mode_fsm.md R153). -/
def execMconfirm (s : State) : Result := quietly (confirm invokeHook) s

end Sys2Proof.Machine
end

