-- ==== Sys2Proof/Machine/Cycle.lean ====
section
/-!
DEFINITION. The dispatcher cycle (44_dispatcher_cycle.md): PROCESS and its steps, the work for one frame, and the rows
that stand for a received frame of a class (30_encoding.md R84; log 12). And RESET (70_reset_and_hazards.md R240).
-/
namespace Sys2Proof.Machine

/-- P_UI (R176): the UI runs, and is asked once for its action; without a UI the action is `none`. -/
def pollUi (s : State) : Result :=
  if s.par.uiPresent then
    let draw := drawTurn s.env
    match draw.1 with
    | .answers a =>
      .next { emit (.uiRequestedAction a) (emit .uiRun { s with env := draw.2 }) with act := a }
    | .hangs => .fault .neverReturns
  else .next { s with act := actNoneCode }

/-- The decoded pass of a frame, by the class test (R183): `ext` first, then `len`. -/
def classTest (mcount : Nat) (f : Frame) (s : State) : Result :=
  if f.ext then .next s
  else if f.len.toNat ≠ 0 then decodedPass (atPhase (.p4Drain mcount .dec 0) s)
  else .next s

/-- All of one retrieved frame, which is the `mcount`-th of its cycle (R180 to R183). -/
def dispatchFrame (mcount : Nat) (f : Frame) (s : State) : Result :=
  andThen (callbackStep (atPhase (.p4Drain mcount .fh 0) (holdFrame f s))) fun t =>
  andThen (rawPass (atPhase (.p4Drain mcount .raw 0) t)) fun u =>
  andThen (indicateActivity (atPhase (.p4Drain mcount .activity 0) u)) (classTest mcount f)

/-- The drain loop (R179): at most `n` more frames, of which `mcount` have been drained, while the transport has one. -/
def drainFrom : Nat → Nat → State → Result
  | 0, _, s => .next s
  | n + 1, mcount, s =>
    andThen (transportAvailable s) fun query =>
      if query.1 then
        andThen (transportNext query.2) fun r =>
        andThen (dispatchFrame (mcount + 1) r.1 r.2) (drainFrom n (mcount + 1))
      else .next query.2

/-- DRAIN (R179). -/
def drain (maxMessages : Byte) (s : State) : Result :=
  drainFrom maxMessages.toNat 0 (atPhase (.p4Drain 0 .fh 0) s)

/-- Steps 2 and 3 of the cycle on the latched action (R177, R178). -/
def actOn (s : State) : Result :=
  andThen (applyAction s.act (atPhase .p2Act s)) fun t => housekeep s.act (atPhase (.p3House 0) t)

/-- The five steps of a cycle, in order (R175). -/
def cycle (maxMessages : Byte) (s : State) : Result :=
  andThen (pollUi (atPhase .p1Ui s)) fun t =>
  andThen (actOn t) fun u =>
  andThen (drain maxMessages u) fun v =>
  andThen (timeoutCheck (atPhase .p5Tmo v)) fun w => .next (atPhase .idle w)

/-- PROCESS (R175), refused while `seq` is not IDLE (60_exceptions.md R220). -/
def execProcess (maxMessages : Byte) (s : State) : Result :=
  if s.seq = .idle then quietly (cycle maxMessages) s else .refused .reentrantProcess

/-- P_UI (R176), whose answer is the action latched. -/
def execPUi (s : State) : Result := andThen (pollUi s) fun t => .next (answering (.byte t.act) t)

/-- DRAIN (R179). -/
def execDrain (maxMessages : Byte) (s : State) : Result := quietly (keepingPhase (drain maxMessages)) s

/-- ACTIVITY (R182). -/
def execActivity (s : State) : Result := quietly indicateActivity s

/-! ### Received frames by class (30_encoding.md R84) -/

/-- A frame retrieved from the transport: refused when its length is no length (60_exceptions.md R221), else all of
the sequencer's work on it. -/
def receive (f : Frame) (s : State) : Result :=
  if legalLen f.len then quietly (keepingPhase (dispatchFrame (drainedCount s) f)) s
  else .refused .illegalFrameLength

/-- F_EXT: raw-frame pass, never the decoded pass. -/
def execFExt (rtr : Bool) (len : BitVec 4) (data : Payload) (hdr : Nat) (s : State) : Result :=
  receive ⟨true, rtr, len, data, hdr⟩ s

/-- F_ZERO: raw-frame pass, never the decoded pass. -/
def execFZero (rtr : Bool) (data : Payload) (hdr : Nat) (s : State) : Result :=
  receive ⟨false, rtr, 0#4, data, hdr⟩ s

/-- F_STD: both passes, the second keyed by `data[0]`. -/
def execFStd (rtr : Bool) (len : BitVec 4) (data : Payload) (hdr : Nat) (s : State) : Result :=
  receive ⟨false, rtr, len, data, hdr⟩ s

/-- F_ILLEGAL: refused at retrieval (30_encoding.md R84, R97 (i); 60_exceptions.md R221). -/
def execFIllegal (_ext _rtr : Bool) (_len : BitVec 4) (_data : Payload) (_hdr : Nat) (_s : State) : Result :=
  .refused .illegalFrameLength

/-! ### Construction -/

/-- Construction with these parameters over this persisted Configuration content (70_reset_and_hazards.md R240, R241):
the parameters are checked, the block's state takes its reset values, the Configuration store keeps what it holds, and
every service is initialized. The outside agents, the record of transactions and the requests to come go on. -/
def construct (p : Params) (nn : NodeNumber) (canid mode : Byte) (s : State) : Result :=
  if legalConstruction p canid mode then
    initServices
      { State.reset with
        par := p
        lives := s.lives + 1
        cfg := { nn := nn, canid := BitVec.setWidth 7 canid, mode := BitVec.setWidth 1 mode }
        env := s.env
        trace := s.trace
        inbox := s.inbox }
  else .refused .illegalParameter

/-- RESET (R240): construction with the machine's parameters; only the Configuration store survives (R244). -/
def execReset (s : State) : Result :=
  quietly (construct s.par s.cfg.nn (BitVec.setWidth 8 s.cfg.canid) (BitVec.setWidth 8 s.cfg.mode)) s

end Sys2Proof.Machine
end

