-- ==== Sys2Proof/Machine/Values.lean ====
section
/-!
DEFINITION. The codes of the small enumerations as rows of their own (30_encoding.md R92 to R94): an action the UI
reports, a mode the block indicates, an answer a handler gives (log 14, 15, 16).
-/
namespace Sys2Proof.Machine

/-- The UI reports this action: it is latched (10_state.md R34), applied in step 2 (42_mode_fsm.md R158) and passed to
every housekeeping hook in step 3 (41_service_pipeline.md R131). With UI_PRESENT = 0 no UI can report one (R34;
30_encoding.md R98 (v)); that the row has this effect then too is the model's DESIGN CHOICE (log 14). -/
def reportedAction (a : Byte) (s : State) : Result := quietly (keepingPhase actOn) { s with act := a }

/-- ACT_NONE, which also stands for every code above 3: step 2 does nothing, the hooks get the code (R92). -/
def execActNone (code : Byte) (s : State) : Result := reportedAction code s

/-- ACT_CHANGE_MODE (R158). -/
def execActChangeMode (s : State) : Result := reportedAction actChangeModeCode s

/-- ACT_RENEGOTIATE (R158). -/
def execActRenegotiate (s : State) : Result := reportedAction actRenegotiateCode s

/-- ACT_ENUMERATION: ignored by step 2, passed to the hooks (43_enumeration.md R171). -/
def execActEnumeration (s : State) : Result := reportedAction actEnumerationCode s

/-- IND_SLIM (30_encoding.md R93; 42_mode_fsm.md R150). -/
def execIndSlim (s : State) : Result := quietly (indicateMode .slim) s

/-- IND_FLIM. -/
def execIndFlim (s : State) : Result := quietly (indicateMode .flim) s

/-- IND_MODECHANGING. -/
def execIndModechanging (s : State) : Result := quietly (indicateMode .modeChanging) s

/-- ANS_NOT_CLAIMED: the handler in progress answers, and the pass goes on to the next service (R94; 41_service_pipeline.md
R133, R134). -/
def execAnsNotClaimed (s : State) : Result := passAnswer false (emit (.handlerAnswer false) s)

/-- ANS_CLAIMED: the handler in progress answers, and the pass stops. -/
def execAnsClaimed (s : State) : Result := passAnswer true (emit (.handlerAnswer true) s)

end Sys2Proof.Machine
end

