-- ==== Sys2Proof/Machine/Dispatch.lean ====
section
/-!
DEFINITION. One arm per constructor of `Instr`, each a direct call of its meaning.
-/
namespace Sys2Proof.Machine

def exec (i : Instr) (s : State) : Host.Outcome State Fault Refusal :=
  match i with
  | .reset => Sys2Proof.Machine.execReset s
  | .process maxMessages => Sys2Proof.Machine.execProcess maxMessages s
  | .pUi => Sys2Proof.Machine.execPUi s
  | .drain maxMessages => Sys2Proof.Machine.execDrain maxMessages s
  | .housekeep act => Sys2Proof.Machine.execHousekeep act s
  | .fhCall => Sys2Proof.Machine.execFhCall s
  | .rawdisp => Sys2Proof.Machine.execRawdisp s
  | .activity => Sys2Proof.Machine.execActivity s
  | .decdisp => Sys2Proof.Machine.execDecdisp s
  | .svcInit => Sys2Proof.Machine.execSvcInit s
  | .qput m => Sys2Proof.Machine.execQput m s
  | .qget => Sys2Proof.Machine.execQget s
  | .qpeek => Sys2Proof.Machine.execQpeek s
  | .qavail => Sys2Proof.Machine.execQavail s
  | .qclear => Sys2Proof.Machine.execQclear s
  | .qsize => Sys2Proof.Machine.execQsize s
  | .qfull => Sys2Proof.Machine.execQfull s
  | .qputs => Sys2Proof.Machine.execQputs s
  | .qgets => Sys2Proof.Machine.execQgets s
  | .qovf => Sys2Proof.Machine.execQovf s
  | .qhwm => Sys2Proof.Machine.execQhwm s
  | .minit => Sys2Proof.Machine.execMinit s
  | .mreneg => Sys2Proof.Machine.execMreneg s
  | .mconfirm => Sys2Proof.Machine.execMconfirm s
  | .mtimeout => Sys2Proof.Machine.execMtimeout s
  | .mrevert => Sys2Proof.Machine.execMrevert s
  | .msetslim => Sys2Proof.Machine.execMsetslim s
  | .museract act => Sys2Proof.Machine.execMuseract act s
  | .indicate v => Sys2Proof.Machine.execIndicate v s
  | .enumStart => Sys2Proof.Machine.execEnumStart s
  | .send m => Sys2Proof.Machine.execSend m s
  | .sendnn opc => Sys2Proof.Machine.execSendnn opc s
  | .sendRqnn => Sys2Proof.Machine.execSendRqnn s
  | .sendNnrel => Sys2Proof.Machine.execSendNnrel s
  | .sendWrack => Sys2Proof.Machine.execSendWrack s
  | .sendCmderr err => Sys2Proof.Machine.execSendCmderr err s
  | .sendGrsp opc svcType result => Sys2Proof.Machine.execSendGrsp opc svcType result s
  | .fExt rtr len data hdr => Sys2Proof.Machine.execFExt rtr len data hdr s
  | .fZero rtr data hdr => Sys2Proof.Machine.execFZero rtr data hdr s
  | .fStd rtr len data hdr => Sys2Proof.Machine.execFStd rtr len data hdr s
  | .fIllegal ext rtr len data hdr => Sys2Proof.Machine.execFIllegal ext rtr len data hdr s
  | .rqnn nn d3 d4 d5 d6 d7 => Sys2Proof.Machine.execRqnn nn d3 d4 d5 d6 d7 s
  | .nnrel nn d3 d4 d5 d6 d7 => Sys2Proof.Machine.execNnrel nn d3 d4 d5 d6 d7 s
  | .wrack nn d3 d4 d5 d6 d7 => Sys2Proof.Machine.execWrack nn d3 d4 d5 d6 d7 s
  | .cmderr nn err d4 d5 d6 d7 => Sys2Proof.Machine.execCmderr nn err d4 d5 d6 d7 s
  | .grsp nn opc svcType result d6 d7 => Sys2Proof.Machine.execGrsp nn opc svcType result d6 d7 s
  | .actNone code => Sys2Proof.Machine.execActNone code s
  | .actChangeMode => Sys2Proof.Machine.execActChangeMode s
  | .actRenegotiate => Sys2Proof.Machine.execActRenegotiate s
  | .actEnumeration => Sys2Proof.Machine.execActEnumeration s
  | .indSlim => Sys2Proof.Machine.execIndSlim s
  | .indFlim => Sys2Proof.Machine.execIndFlim s
  | .indModechanging => Sys2Proof.Machine.execIndModechanging s
  | .ansNotClaimed => Sys2Proof.Machine.execAnsNotClaimed s
  | .ansClaimed => Sys2Proof.Machine.execAnsClaimed s

end Sys2Proof.Machine
end

