-- ==== Sys2Proof/Machine/Step.lean ====
section
/-!
DEFINITION. One step of the machine: the next input is taken from the inbox, decoded, admitted and executed; an empty
inbox leaves the block idle (70_reset_and_hazards.md R242; 60_exceptions.md R232). Log 10 says how a program comes to run.
-/
namespace Sys2Proof.Machine

/-- A word whose instruction has been decoded: a request of the host is admitted or refused (30_encoding.md R97); the
block's own steps and the words of the other formats need no admission. A CMD packet of the port internal whose code has
no `I` in R89's "who" column has no issuer in the spec and no named refusal: that it is executed, as the block's own step
and in any phase, is the model's DESIGN CHOICE (log 39). -/
def runWord (port : Port) (i : Instr) (s : State) : Host.Outcome State Fault Refusal :=
  match port with
  | .host =>
    match admitHost i s with
    | some r => .refused r
    | none => exec i s
  | _ => exec i s

/-- The machine's one step. -/
def step (s : State) : Host.Outcome State Fault Refusal :=
  match s.inbox with
  | [] => .next s
  | .word p :: rest =>
    match decode p with
    | .error e => .refused (if p.port = .host then requestRefusal p.bytes e else refusalOf e)
    | .ok i => runWord p.port i { s with inbox := rest }
  | .cfgSet w :: rest => setCfg w { s with inbox := rest }
  | .powerOn par nn canid mode :: rest => construct par nn canid mode { s with inbox := rest }

/-- `s` with that instruction as its next request. An ANS word is the answer of a handler, so the sequencer is put
where the first raw-frame handler is invoked; every other word needs only to be the next input. -/
def State.withFetchWord (s : State) (nbits w : Nat) : State :=
  { s with
    inbox := [.word (tablePacket nbits w)]
    seq := if (tablePacket nbits w).port = .ans then .p4Drain 0 .raw 0 else s.seq }

end Sys2Proof.Machine
end

