-- ==== Sys2Proof/Safety.lean ====
section
/-!
DEFINITION. The terms the statements use: the queue's invariant and contents (10_state.md R32), the machine's invariant,
and what it is for an outside agent to keep the obligations of 70_reset_and_hazards.md R250 to R261.
-/
namespace Sys2Proof.Machine

/-- The queue invariants (10_state.md R32 (i) to (v)), that the occupied slots have been written (R45), that the queue
store is in canonical form with indices below C, and that the counters have their width. -/
structure QueueInv (p : Params) (q : Queue) : Prop where
  capacity_pos : 1 ≤ p.capacity
  size_le : q.size ≤ p.capacity
  head_lt : q.head < p.capacity
  tail_lt : q.tail < p.capacity
  full_iff : q.full = true ↔ q.size = p.capacity
  tail_eq : q.tail = (q.head + q.size) % p.capacity
  size_le_hwm : q.size ≤ q.hwm
  hwm_le : q.hwm ≤ p.capacity
  occupied : ∀ j < q.size, (readSlot ((q.head + j) % p.capacity) q.store).isSome = true
  canonical : storeWellFormed q.store = true
  slots_lt : ∀ e ∈ q.store, e.1 < p.capacity
  puts_lt : q.puts < 2 ^ p.counterWidth
  gets_lt : q.gets < 2 ^ p.counterWidth
  overflows_lt : q.overflows < 2 ^ p.counterWidth

/-- The occupied slots `Q[(head + j) mod C]`, `j = 0..size-1`, oldest first (R32 (vi)). -/
def queueContents (p : Params) (q : Queue) : List Message :=
  (List.range q.size).filterMap fun j => readSlot ((q.head + j) % p.capacity) q.store

/-- The machine's invariant: legal parameters (70_reset_and_hazards.md R241), the queue's invariant, `started` within
its width, and FRM and MSG, once held, a frame of legal length and its conversion (10_state.md R22; R221). -/
structure Inv (s : State) : Prop where
  parameters : legalConstruction s.par 0x00#8 0x00#8 = true
  queue : QueueInv s.par s.queue
  started_lt : s.started < 2 ^ s.par.clockWidth
  held : s.frameHeld = true → s.msg = frameMessage s.frm ∧ legalLen s.frm.len = true

/-- A request a party may make during its invocation: it spells an operation that R252 lists. -/
def lawfulRequest (bytes : List Byte) : Bool :=
  match decodeRequest bytes with
  | .ok i => serviceMay i
  | .error _ => false

/-- A party that keeps its obligations: it requests only what R252 lists, sets the Configuration store only within
range (10_state.md R40), takes no frame (R253), and returns (R261). It may get the store's fields as it likes. -/
def lawful : Behaviour → Bool
  | .done _ => true
  | .hang => false
  | .takeFrame => false
  | .setCfg w rest => legalCfgWrite w && lawful rest
  | .getCfg _ rest => lawful rest
  | .request bytes nested rest => lawfulRequest bytes && lawful nested && lawful rest

/-- The frames a transport may give: "a length (0-8)". -/
def lawfulFrames (fs : List Frame) : Bool := fs.all fun f => legalLen f.len

/-- Every UI indication and transport transaction to come returns (60_exceptions.md R222). -/
abbrev AllReturn (s : State) : Prop := s.env.stallsAfter = none

/-- The same state where every UI indication and transport transaction to come returns. -/
def returning (s : State) : State := { s with env := { s.env with stallsAfter := none } }

/-- The outside agents' scripts reach through `invocations` invocations, `queries` availability queries and one turn of
the UI, and every agent keeps its obligations in them. -/
structure LawfulEnv (invocations queries : Nat) (e : Env) : Prop where
  behaviours_enough : invocations ≤ e.behaviours.length
  behaviours_lawful : ∀ b ∈ e.behaviours, lawful b = true
  arrivals_enough : queries ≤ e.arrivals.length
  arrivals_lawful : ∀ fs ∈ e.arrivals, lawfulFrames fs = true
  rx_lawful : lawfulFrames e.rx = true
  turn_answers : ∃ a rest, e.turns = .answers a :: rest
  all_return : e.stallsAfter = none

/-- The event is the invocation of a raw-frame handler. -/
def isRawCall (e : Event) : Bool :=
  match e with
  | .svcRaw _ _ => true
  | _ => false

/-- The event is the invocation of a decoded-message handler. -/
def isDecodedCall (e : Event) : Bool :=
  match e with
  | .svcMsg _ _ _ => true
  | _ => false

/-- The event is a retrieval from the transport. -/
def isRetrieval (e : Event) : Bool :=
  match e with
  | .transportNext _ => true
  | _ => false

/-- The indication a mode operation makes: one transaction when there is a UI, none otherwise (42_mode_fsm.md R150). -/
def shownMode (s : State) (v : Byte) : List Event := if s.par.uiPresent then [.uiIndicateMode v] else []

/-- The activity indication of one frame (44_dispatcher_cycle.md R182). -/
def shownActivity (s : State) : List Event := if s.par.uiPresent then [.uiIndicateActivity] else []

/-- From `e` to `e'` the transport has answered one send with `ok`: as its script says, or freely when that is used up. -/
structure SendDrawn (e e' : Env) (ok : Bool) : Prop where
  only : e' = { e with sends := e'.sends, draws := e'.draws }
  scripted : ∀ b rest, e.sends = b :: rest → ok = b ∧ e' = { e with sends := rest }

/-- From `e` to `e'` the clock has been sampled once: true time has not gone back, and has gone on by as much as its
script says, or freely when that is used up (10_state.md R41). -/
structure ClockDrawn (e e' : Env) : Prop where
  monotone : e.time ≤ e'.time
  only : e' = { e with time := e'.time, ticks := e'.ticks, draws := e'.draws }
  scripted : ∀ d rest, e.ticks = d :: rest → e' = { e with time := e.time + d, ticks := rest }

/-- How many handlers a pass invokes when they would answer like this in registration order: up to the first that
claims, and all when none does (41_service_pipeline.md R136). -/
def invokedCount : List Bool → Nat
  | [] => 0
  | true :: _ => 1
  | false :: rest => invokedCount rest + 1

/-- Invocations that return at once with these answers. -/
def answersAtOnce (answers : List Bool) : List Behaviour := answers.map Behaviour.done

/-- `N`, the number of registered services (00_scope.md R8). -/
def serviceCount (s : State) : Nat := s.par.services.length

end Sys2Proof.Machine
end

