-- ==== Sys2Proof/Laws/State.lean ====
section
/-!
SUPPORT. One lemma per field per named update of the state.
-/
namespace Sys2Proof.Machine

@[simp] theorem answering_par (a : Answer) (s : State) : (answering a s).par = s.par := rfl
@[simp] theorem answering_queue (a : Answer) (s : State) : (answering a s).queue = s.queue := rfl
@[simp] theorem answering_frm (a : Answer) (s : State) : (answering a s).frm = s.frm := rfl
@[simp] theorem answering_msg (a : Answer) (s : State) : (answering a s).msg = s.msg := rfl
@[simp] theorem answering_frameHeld (a : Answer) (s : State) : (answering a s).frameHeld = s.frameHeld := rfl
@[simp] theorem answering_lives (a : Answer) (s : State) : (answering a s).lives = s.lives := rfl
@[simp] theorem answering_seq (a : Answer) (s : State) : (answering a s).seq = s.seq := rfl
@[simp] theorem answering_act (a : Answer) (s : State) : (answering a s).act = s.act := rfl
@[simp] theorem answering_changing (a : Answer) (s : State) : (answering a s).changing = s.changing := rfl
@[simp] theorem answering_started (a : Answer) (s : State) : (answering a s).started = s.started := rfl
@[simp] theorem answering_cfg (a : Answer) (s : State) : (answering a s).cfg = s.cfg := rfl
@[simp] theorem answering_env (a : Answer) (s : State) : (answering a s).env = s.env := rfl
@[simp] theorem answering_answer (a : Answer) (s : State) : (answering a s).answer = a := rfl
@[simp] theorem answering_trace (a : Answer) (s : State) : (answering a s).trace = s.trace := rfl
@[simp] theorem answering_inbox (a : Answer) (s : State) : (answering a s).inbox = s.inbox := rfl

@[simp] theorem emit_par (e : Event) (s : State) : (emit e s).par = s.par := rfl
@[simp] theorem emit_queue (e : Event) (s : State) : (emit e s).queue = s.queue := rfl
@[simp] theorem emit_frm (e : Event) (s : State) : (emit e s).frm = s.frm := rfl
@[simp] theorem emit_msg (e : Event) (s : State) : (emit e s).msg = s.msg := rfl
@[simp] theorem emit_frameHeld (e : Event) (s : State) : (emit e s).frameHeld = s.frameHeld := rfl
@[simp] theorem emit_lives (e : Event) (s : State) : (emit e s).lives = s.lives := rfl
@[simp] theorem emit_seq (e : Event) (s : State) : (emit e s).seq = s.seq := rfl
@[simp] theorem emit_act (e : Event) (s : State) : (emit e s).act = s.act := rfl
@[simp] theorem emit_changing (e : Event) (s : State) : (emit e s).changing = s.changing := rfl
@[simp] theorem emit_started (e : Event) (s : State) : (emit e s).started = s.started := rfl
@[simp] theorem emit_cfg (e : Event) (s : State) : (emit e s).cfg = s.cfg := rfl
@[simp] theorem emit_env (e : Event) (s : State) : (emit e s).env = s.env := rfl
@[simp] theorem emit_answer (e : Event) (s : State) : (emit e s).answer = s.answer := rfl
@[simp] theorem emit_trace (e : Event) (s : State) : (emit e s).trace = s.trace ++ [e] := rfl
@[simp] theorem emit_inbox (e : Event) (s : State) : (emit e s).inbox = s.inbox := rfl

@[simp] theorem atPhase_par (p : Seq) (s : State) : (atPhase p s).par = s.par := rfl
@[simp] theorem atPhase_queue (p : Seq) (s : State) : (atPhase p s).queue = s.queue := rfl
@[simp] theorem atPhase_frm (p : Seq) (s : State) : (atPhase p s).frm = s.frm := rfl
@[simp] theorem atPhase_msg (p : Seq) (s : State) : (atPhase p s).msg = s.msg := rfl
@[simp] theorem atPhase_frameHeld (p : Seq) (s : State) : (atPhase p s).frameHeld = s.frameHeld := rfl
@[simp] theorem atPhase_lives (p : Seq) (s : State) : (atPhase p s).lives = s.lives := rfl
@[simp] theorem atPhase_seq (p : Seq) (s : State) : (atPhase p s).seq = p := rfl
@[simp] theorem atPhase_act (p : Seq) (s : State) : (atPhase p s).act = s.act := rfl
@[simp] theorem atPhase_changing (p : Seq) (s : State) : (atPhase p s).changing = s.changing := rfl
@[simp] theorem atPhase_started (p : Seq) (s : State) : (atPhase p s).started = s.started := rfl
@[simp] theorem atPhase_cfg (p : Seq) (s : State) : (atPhase p s).cfg = s.cfg := rfl
@[simp] theorem atPhase_env (p : Seq) (s : State) : (atPhase p s).env = s.env := rfl
@[simp] theorem atPhase_answer (p : Seq) (s : State) : (atPhase p s).answer = s.answer := rfl
@[simp] theorem atPhase_trace (p : Seq) (s : State) : (atPhase p s).trace = s.trace := rfl
@[simp] theorem atPhase_inbox (p : Seq) (s : State) : (atPhase p s).inbox = s.inbox := rfl

@[simp] theorem holdFrame_par (f : Frame) (s : State) : (holdFrame f s).par = s.par := rfl
@[simp] theorem holdFrame_queue (f : Frame) (s : State) : (holdFrame f s).queue = s.queue := rfl
@[simp] theorem holdFrame_frm (f : Frame) (s : State) : (holdFrame f s).frm = f := rfl
@[simp] theorem holdFrame_msg (f : Frame) (s : State) : (holdFrame f s).msg = frameMessage f := rfl
@[simp] theorem holdFrame_frameHeld (f : Frame) (s : State) : (holdFrame f s).frameHeld = true := rfl
@[simp] theorem holdFrame_lives (f : Frame) (s : State) : (holdFrame f s).lives = s.lives := rfl
@[simp] theorem holdFrame_seq (f : Frame) (s : State) : (holdFrame f s).seq = s.seq := rfl
@[simp] theorem holdFrame_act (f : Frame) (s : State) : (holdFrame f s).act = s.act := rfl
@[simp] theorem holdFrame_changing (f : Frame) (s : State) : (holdFrame f s).changing = s.changing := rfl
@[simp] theorem holdFrame_started (f : Frame) (s : State) : (holdFrame f s).started = s.started := rfl
@[simp] theorem holdFrame_cfg (f : Frame) (s : State) : (holdFrame f s).cfg = s.cfg := rfl
@[simp] theorem holdFrame_env (f : Frame) (s : State) : (holdFrame f s).env = s.env := rfl
@[simp] theorem holdFrame_answer (f : Frame) (s : State) : (holdFrame f s).answer = s.answer := rfl
@[simp] theorem holdFrame_trace (f : Frame) (s : State) : (holdFrame f s).trace = s.trace := rfl
@[simp] theorem holdFrame_inbox (f : Frame) (s : State) : (holdFrame f s).inbox = s.inbox := rfl

/-! The clock and the Configuration store leave the rest. -/

@[simp] theorem clockNow_par (s : State) : ((clockNow s).2).par = s.par := rfl
@[simp] theorem clockNow_queue (s : State) : ((clockNow s).2).queue = s.queue := rfl
@[simp] theorem clockNow_frm (s : State) : ((clockNow s).2).frm = s.frm := rfl
@[simp] theorem clockNow_msg (s : State) : ((clockNow s).2).msg = s.msg := rfl
@[simp] theorem clockNow_frameHeld (s : State) : ((clockNow s).2).frameHeld = s.frameHeld := rfl
@[simp] theorem clockNow_lives (s : State) : ((clockNow s).2).lives = s.lives := rfl
@[simp] theorem clockNow_seq (s : State) : ((clockNow s).2).seq = s.seq := rfl
@[simp] theorem clockNow_act (s : State) : ((clockNow s).2).act = s.act := rfl
@[simp] theorem clockNow_changing (s : State) : ((clockNow s).2).changing = s.changing := rfl
@[simp] theorem clockNow_started (s : State) : ((clockNow s).2).started = s.started := rfl
@[simp] theorem clockNow_cfg (s : State) : ((clockNow s).2).cfg = s.cfg := rfl
@[simp] theorem clockNow_answer (s : State) : ((clockNow s).2).answer = s.answer := rfl
@[simp] theorem clockNow_inbox (s : State) : ((clockNow s).2).inbox = s.inbox := rfl

@[simp] theorem storeCfg_par (w : CfgWrite) (s : State) : (storeCfg w s).par = s.par := by cases w <;> rfl
@[simp] theorem storeCfg_queue (w : CfgWrite) (s : State) : (storeCfg w s).queue = s.queue := by cases w <;> rfl
@[simp] theorem storeCfg_frm (w : CfgWrite) (s : State) : (storeCfg w s).frm = s.frm := by cases w <;> rfl
@[simp] theorem storeCfg_msg (w : CfgWrite) (s : State) : (storeCfg w s).msg = s.msg := by cases w <;> rfl
@[simp] theorem storeCfg_frameHeld (w : CfgWrite) (s : State) : (storeCfg w s).frameHeld = s.frameHeld := by cases w <;> rfl
@[simp] theorem storeCfg_lives (w : CfgWrite) (s : State) : (storeCfg w s).lives = s.lives := by cases w <;> rfl
@[simp] theorem storeCfg_seq (w : CfgWrite) (s : State) : (storeCfg w s).seq = s.seq := by cases w <;> rfl
@[simp] theorem storeCfg_act (w : CfgWrite) (s : State) : (storeCfg w s).act = s.act := by cases w <;> rfl
@[simp] theorem storeCfg_changing (w : CfgWrite) (s : State) : (storeCfg w s).changing = s.changing := by cases w <;> rfl
@[simp] theorem storeCfg_started (w : CfgWrite) (s : State) : (storeCfg w s).started = s.started := by cases w <;> rfl
@[simp] theorem storeCfg_env (w : CfgWrite) (s : State) : (storeCfg w s).env = s.env := by cases w <;> rfl
@[simp] theorem storeCfg_answer (w : CfgWrite) (s : State) : (storeCfg w s).answer = s.answer := by cases w <;> rfl
@[simp] theorem storeCfg_inbox (w : CfgWrite) (s : State) : (storeCfg w s).inbox = s.inbox := by cases w <;> rfl

@[simp] theorem storeCfg_trace (w : CfgWrite) (s : State) : (storeCfg w s).trace = s.trace ++ [.cfgSet w] := by cases w <;> rfl

end Sys2Proof.Machine
end

