-- ==== Sys2Proof/Laws/Ops.lean ====
section
/-!
SUPPORT. What the shared operations can do, said once: sequencing, draws, collaborator transactions, admission.
-/
namespace Sys2Proof.Machine

variable {α β : Type}

@[simp] theorem andThen_next (a : α) (k : α → Host.Outcome β Fault Refusal) : andThen (.next a) k = k a := rfl
@[simp] theorem andThen_fault (f : Fault) (k : α → Host.Outcome β Fault Refusal) :
    andThen (.fault f) k = .fault f := rfl
@[simp] theorem andThen_refused (e : Refusal) (k : α → Host.Outcome β Fault Refusal) :
    andThen (.refused e) k = .refused e := rfl

/-- A sequence answers a next state exactly when both parts do. -/
theorem andThen_eq_next {r : Host.Outcome α Fault Refusal} {k : α → Host.Outcome β Fault Refusal} {b : β} :
    andThen r k = .next b ↔ ∃ a, r = .next a ∧ k a = .next b := by
  cases r <;> simp

theorem keepingPhase_eq_next {op : State → Result} {s t : State} :
    keepingPhase op s = .next t ↔ ∃ u, op s = .next u ∧ t = atPhase s.seq u := by
  simp only [keepingPhase, andThen_eq_next, Host.Outcome.next.injEq, eq_comm (b := t)]

theorem quietly_eq_next {op : State → Result} {s t : State} :
    quietly op s = .next t ↔ ∃ u, op s = .next u ∧ t = answering .nothing u := by
  simp only [quietly, andThen_eq_next, Host.Outcome.next.injEq, eq_comm (b := t)]

/-- A draw of a send's answer changes the script of sends and the count of draws only. -/
theorem drawSend_env (e : Env) :
    (drawSend e).2 = { e with sends := (drawSend e).2.sends, draws := (drawSend e).2.draws } := by
  unfold drawSend; split <;> rfl

/-- A draw of a tick changes the script of ticks and the count of draws only. -/
theorem drawTick_env (e : Env) :
    (drawTick e).2 = { e with ticks := (drawTick e).2.ticks, draws := (drawTick e).2.draws } := by
  unfold drawTick; split <;> rfl

theorem drawTurn_env (e : Env) :
    (drawTurn e).2 = { e with turns := (drawTurn e).2.turns, draws := (drawTurn e).2.draws } := by
  unfold drawTurn; split <;> rfl

theorem drawBehaviour_env (e : Env) :
    (drawBehaviour e).2 = { e with behaviours := (drawBehaviour e).2.behaviours, draws := (drawBehaviour e).2.draws } := by
  unfold drawBehaviour; split <;> rfl

theorem drawArrivals_env (e : Env) :
    (drawArrivals e).2 = { e with arrivals := (drawArrivals e).2.arrivals, draws := (drawArrivals e).2.draws } := by
  unfold drawArrivals; split <;> rfl

theorem drawSend_draws (e : Env) : e.draws ≤ (drawSend e).2.draws := by unfold drawSend; split <;> simp
theorem drawTick_draws (e : Env) : e.draws ≤ (drawTick e).2.draws := by unfold drawTick; split <;> simp
theorem drawTurn_draws (e : Env) : e.draws ≤ (drawTurn e).2.draws := by unfold drawTurn; split <;> simp
theorem drawBehaviour_draws (e : Env) : e.draws ≤ (drawBehaviour e).2.draws := by
  unfold drawBehaviour; split <;> simp
theorem drawArrivals_draws (e : Env) : e.draws ≤ (drawArrivals e).2.draws := by unfold drawArrivals; split <;> simp

theorem drawSend_time (e : Env) : (drawSend e).2.time = e.time := by rw [drawSend_env]
theorem drawTick_time (e : Env) : (drawTick e).2.time = e.time := by rw [drawTick_env]
theorem drawTurn_time (e : Env) : (drawTurn e).2.time = e.time := by rw [drawTurn_env]
theorem drawBehaviour_time (e : Env) : (drawBehaviour e).2.time = e.time := by rw [drawBehaviour_env]
theorem drawArrivals_time (e : Env) : (drawArrivals e).2.time = e.time := by rw [drawArrivals_env]

/-- `Clock.now`: the sample is true time modulo 2^CLKW, one event, and time does not go back. -/
@[simp] theorem clockNow_sample (s : State) :
    (clockNow s).1 = (clockNow s).2.env.time % 2 ^ s.par.clockWidth := rfl

@[simp] theorem clockNow_trace (s : State) : (clockNow s).2.trace = s.trace ++ [.clockNow (clockNow s).1] := rfl

theorem clockNow_time (s : State) : s.env.time ≤ (clockNow s).2.env.time := Nat.le_add_right _ _

/-- A transaction that returns leaves everything but the count of those still to return. -/
theorem reach_eq_next {s t : State} (h : reach s = .next t) :
    t = { s with env := { s.env with stallsAfter := t.env.stallsAfter } } := by
  unfold reach at h
  split at h <;> cases h <;> rfl

@[simp] theorem reach_of_allReturn {s : State} (h : s.env.stallsAfter = none) : reach s = .next s := by
  unfold reach; rw [h]

@[simp] theorem reach_of_stall {s : State} (h : s.env.stallsAfter = some 0) : reach s = .fault .neverReturns := by
  unfold reach; rw [h]

/-- `Transport.send`: one event with the answer the transport draws, and nothing of the block changes. -/
theorem transportSend_eq_next {m : Message} {s : State} {r : Bool × State} (h : transportSend m s = .next r) :
    ∃ t, reach s = .next t ∧ r.1 = (drawSend t.env).1 ∧
      r.2 = { s with env := (drawSend t.env).2, trace := s.trace ++ [.transportSend (presented m) r.1] } := by
  obtain ⟨t, ht, hr⟩ := andThen_eq_next.mp h
  cases hr
  refine ⟨t, ht, rfl, ?_⟩
  rw [reach_eq_next ht]; rfl

theorem transportSend_of_allReturn (m : Message) {s : State} (h : AllReturn s) :
    transportSend m s = .next ((drawSend s.env).1, { s with
      env := (drawSend s.env).2, trace := s.trace ++ [.transportSend (presented m) (drawSend s.env).1] }) := by
  simp [transportSend, reach_of_allReturn h, emit]

/-- `INDICATE`: one UI transaction when there is a UI, and nothing of the block changes. -/
theorem indicateMode_eq_next {v : Indication} {s t : State} (h : indicateMode v s = .next t) :
    t = { s with
      env := { s.env with stallsAfter := t.env.stallsAfter }, trace := s.trace ++ shownMode s v.code } := by
  unfold indicateMode at h
  split at h
  · obtain ⟨u, hu, ht⟩ := andThen_eq_next.mp h
    cases ht
    rw [reach_eq_next hu]; simp [emit, shownMode, *]
  · cases h; simp [shownMode, *]

theorem indicateMode_of_allReturn (v : Indication) {s : State} (h : AllReturn s) :
    indicateMode v s = .next { s with trace := s.trace ++ shownMode s v.code } := by
  unfold indicateMode
  cases hu : s.par.uiPresent <;> simp [reach_of_allReturn h, emit, shownMode, hu]

/-- `ACTIVITY`: one UI transaction when there is a UI, and nothing of the block changes. -/
theorem indicateActivity_eq_next {s t : State} (h : indicateActivity s = .next t) :
    t = { s with
      env := { s.env with stallsAfter := t.env.stallsAfter }, trace := s.trace ++ shownActivity s } := by
  unfold indicateActivity at h
  split at h
  · obtain ⟨u, hu, ht⟩ := andThen_eq_next.mp h
    cases ht
    rw [reach_eq_next hu]; simp [emit, shownActivity, *]
  · cases h; simp [shownActivity, *]

theorem indicateActivity_of_allReturn {s : State} (h : AllReturn s) :
    indicateActivity s = .next { s with trace := s.trace ++ shownActivity s } := by
  unfold indicateActivity
  cases hu : s.par.uiPresent <;> simp [reach_of_allReturn h, emit, shownActivity, hu]

/-- `Transport.available`: the frames that have entered join the buffer, and nothing of the block changes. -/
theorem transportAvailable_eq_next {s : State} {r : Bool × State} (h : transportAvailable s = .next r) :
    r.1 = !r.2.env.rx.isEmpty ∧ r.2 = { s with env := r.2.env } ∧ r.2.env.time = s.env.time := by
  obtain ⟨t, ht, hr⟩ := andThen_eq_next.mp h
  cases hr
  refine ⟨rfl, ?_, ?_⟩
  · rw [reach_eq_next ht]
  · show (drawArrivals t.env).2.time = _
    rw [drawArrivals_time, reach_eq_next ht]

theorem transportAvailable_of_allReturn {s : State} (h : AllReturn s) :
    transportAvailable s = .next (!(s.env.rx ++ (drawArrivals s.env).1).isEmpty, { s with
      env := { (drawArrivals s.env).2 with rx := s.env.rx ++ (drawArrivals s.env).1 } }) := by
  simp [transportAvailable, reach_of_allReturn h, show (drawArrivals s.env).2.rx = s.env.rx by rw [drawArrivals_env]]

/-- `Transport.next` answers the frame at the head of the buffer, which has a legal length, and removes it. -/
theorem transportNext_eq_next {s t : State} {f : Frame} (h : transportNext s = .next (f, t)) :
    ∃ rest, s.env.rx = f :: rest ∧ legalLen f.len = true ∧
      t = { s with
        env := { s.env with rx := rest, stallsAfter := t.env.stallsAfter }
        trace := s.trace ++ [.transportNext f] } := by
  obtain ⟨u, hu, h⟩ := andThen_eq_next.mp h
  have hu := reach_eq_next hu
  have hrx : u.env.rx = s.env.rx := by rw [hu]
  dsimp only at h
  split at h
  · cases h
  · rename_i g rest hg
    split at h
    · cases h
      refine ⟨rest, by rw [← hrx, hg], ‹_›, ?_⟩
      rw [hu]; rfl
    · cases h

/-- MINIT and MRENEG, when they answer a next state: one send, one clock sample, ModeChanging. -/
theorem negotiate_eq_next {s t : State} (h : negotiate s = .next t) :
    s.env.time ≤ t.env.time ∧ ∃ ok, t = { s with
      env := t.env, started := t.env.time % 2 ^ s.par.clockWidth, changing := true
      trace := s.trace ++ shownMode s 0x02#8 ++
        [.transportSend [s.par.opcRqnn, nnHigh s.cfg.nn, nnLow s.cfg.nn] ok,
          .clockNow (t.env.time % 2 ^ s.par.clockWidth)] } := by
  obtain ⟨u, hu, h⟩ := andThen_eq_next.mp h
  obtain ⟨r, hr, h⟩ := andThen_eq_next.mp h
  obtain ⟨v, hv, -, hr2⟩ := transportSend_eq_next hr
  have hu := indicateMode_eq_next hu
  have hv := reach_eq_next hv
  have htime : r.2.env.time = s.env.time := by rw [hr2]; simp only [drawSend_time]; rw [hv]; rw [hu]
  cases h
  refine ⟨htime ▸ clockNow_time r.2, r.1, ?_⟩
  rw [hr2, hu]
  simp [clockNow, emit, presented, shortMessage, wireMessage, Payload.bytes, Indication.code]

/-- MSETSLIM, when it answers a next state. -/
theorem setSlim_eq_next {s t : State} (h : setSlim s = .next t) :
    t = { s with
      env := { s.env with stallsAfter := t.env.stallsAfter }
      cfg := ⟨0#16, 0#7, 0#1⟩, changing := false
      trace := s.trace ++ [.cfgSet (.nn 0x0000#16), .cfgSet (.mode 0x00#8), .cfgSet (.canid 0x00#8)] ++
        shownMode s 0x00#8 } := by
  have := indicateMode_eq_next h
  rw [this]; simp [storeCfg, emit, shownMode, Indication.code]

/-- MREVERT, when it answers a next state. -/
theorem revert_eq_next {s t : State} (h : revert s = .next t) :
    t.env.time = s.env.time ∧ ∃ ok, t = { s with
      env := t.env, cfg := ⟨0#16, 0#7, 0#1⟩, changing := false
      trace := s.trace ++ [.transportSend [s.par.opcNnrel, nnHigh s.cfg.nn, nnLow s.cfg.nn] ok,
        .cfgSet (.nn 0x0000#16), .cfgSet (.mode 0x00#8), .cfgSet (.canid 0x00#8)] ++ shownMode s 0x00#8 } := by
  obtain ⟨r, hr, h⟩ := andThen_eq_next.mp h
  obtain ⟨v, hv, -, hr2⟩ := transportSend_eq_next hr
  have hv := reach_eq_next hv
  have ht := setSlim_eq_next h
  constructor
  · rw [ht, hr2]; simp only [drawSend_time]; rw [hv]
  · refine ⟨r.1, ?_⟩
    rw [ht, hr2]
    simp [presented, shortMessage, wireMessage, Payload.bytes, shownMode]

/-- MTIMEOUT, when it answers a next state: `changing`, the record and the outside agents may change, no more. -/
theorem timeoutCheck_eq_next {s t : State} (h : timeoutCheck s = .next t) :
    s.env.time ≤ t.env.time ∧ ∃ es, t = { s with
      env := t.env, changing := t.changing, trace := s.trace ++ es } := by
  unfold timeoutCheck at h
  split at h
  · dsimp only at h
    split at h
    · obtain ⟨u, hu, h⟩ := andThen_eq_next.mp h
      have hu := indicateMode_eq_next hu
      cases h
      refine ⟨?_, [.clockNow (clockNow s).1] ++ shownMode s (stableIndication s.cfg.mode).code, ?_⟩
      · show s.env.time ≤ u.env.time
        rw [hu]; exact clockNow_time s
      · rw [hu]; simp [clockNow, emit, shownMode]; rfl
    · cases h
      exact ⟨clockNow_time s, [.clockNow (clockNow s).1], rfl⟩
  · cases h; exact ⟨Nat.le_refl _, [], by simp⟩

/-- MUSERACT, when it answers a next state: one of the transitions, or nothing. -/
theorem applyAction_eq_next {a : Byte} {s t : State} (h : applyAction a s = .next t) :
    s.env.time ≤ t.env.time ∧ ∃ es, t = { s with
      env := t.env, changing := t.changing, started := t.started, cfg := t.cfg, trace := s.trace ++ es } := by
  have hn : ∀ t, negotiate s = .next t → s.env.time ≤ t.env.time ∧ ∃ es, t = { s with
      env := t.env, changing := t.changing, started := t.started, cfg := t.cfg, trace := s.trace ++ es } := by
    intro t h
    obtain ⟨ht, ok, he⟩ := negotiate_eq_next h
    exact ⟨ht, _, he.trans (by rw [he, List.append_assoc])⟩
  unfold applyAction at h
  split at h
  · split at h
    · exact hn t h
    · obtain ⟨ht, ok, he⟩ := revert_eq_next h
      exact ⟨Nat.le_of_eq ht.symm, _, he.trans (by rw [he, List.append_assoc])⟩
  · split at h
    · exact hn t h
    · cases h; exact ⟨Nat.le_refl _, [], by simp⟩

/-- A set by another agent is in range and is the store's write. -/
theorem setCfg_eq_next {w : CfgWrite} {s t : State} :
    setCfg w s = .next t ↔ legalCfgWrite w = true ∧ t = storeCfg w s := by
  unfold setCfg
  split
  · simp only [Host.Outcome.next.injEq, eq_comm (b := t), true_and, *]
  · simp only [reduceCtorEq, false_and, *]

/-- What a party may request is what R252 lists, which the host may request too. -/
theorem serviceMay_hostMay (i : Instr) (h : serviceMay i = true) : hostMay i = true := by
  cases i <;> simp_all [serviceMay, hostMay]

/-- Where the sequencer goes when a handler answers: it is in a pass, and a claim or the last service ends the pass. -/
theorem passAnswer_eq_next {claimed : Bool} {s t : State} (h : passAnswer claimed s = .next t) :
    ∃ p, seqAfterAnswer s.par.services.length claimed s.seq = some p ∧ t = atPhase p s := by
  unfold passAnswer at h
  split at h
  · cases h; exact ⟨_, ‹_›, rfl⟩
  · cases h

end Sys2Proof.Machine
end

