-- ==== Sys2Proof/Laws/Store.lean ====
section
/-!
SUPPORT. The queue store: a read after a write, and that every operation keeps the canonical form.
-/
namespace Sys2Proof.Machine

/-- A read after a write gives the value written at its slot and leaves every other slot alone. -/
theorem readSlot_writeSlot (i j : Nat) (m : Message) (st : List (Nat × Message)) :
    readSlot j (writeSlot i m st) = if j = i then some m else readSlot j st := by
  induction st with
  | nil => simp [writeSlot, readSlot]
  | cons e rest ih =>
    obtain ⟨k, n⟩ := e
    simp only [writeSlot]
    split
    · simp [readSlot]
    · split
      · subst_vars; simp only [readSlot]; split <;> simp_all
      · simp only [readSlot, ih]
        split <;> split <;> simp_all

theorem slotsAbove_writeSlot (b i : Nat) (m : Message) (st : List (Nat × Message)) (hb : b < i)
    (h : slotsAbove b st = true) : slotsAbove b (writeSlot i m st) = true := by
  induction st generalizing b with
  | nil => simp [writeSlot, slotsAbove, hb]
  | cons e rest ih =>
    obtain ⟨k, n⟩ := e
    simp only [slotsAbove, Bool.and_eq_true, decide_eq_true_eq] at h
    simp only [writeSlot]
    split
    · simp [slotsAbove, *]
    · split
      · subst_vars; simp [slotsAbove, *]
      · have : k < i := by omega
        simp [slotsAbove, h.1, ih k this h.2]

/-- A write keeps the canonical form. -/
theorem storeWellFormed_writeSlot (i : Nat) (m : Message) (st : List (Nat × Message))
    (h : storeWellFormed st = true) : storeWellFormed (writeSlot i m st) = true := by
  cases st with
  | nil => rfl
  | cons e rest =>
    obtain ⟨k, n⟩ := e
    simp only [storeWellFormed] at h
    simp only [writeSlot]
    split
    · simp [storeWellFormed, slotsAbove, *]
    · split
      · subst_vars; simpa [storeWellFormed] using h
      · exact slotsAbove_writeSlot k i m rest (by omega) h

/-- A write adds no index but its own. -/
theorem mem_writeSlot {i : Nat} {m : Message} {st : List (Nat × Message)} {e : Nat × Message}
    (h : e ∈ writeSlot i m st) : e = (i, m) ∨ e ∈ st := by
  induction st with
  | nil => simpa [writeSlot] using h
  | cons f rest ih =>
    obtain ⟨k, n⟩ := f
    simp only [writeSlot] at h
    split at h
    · simpa using h
    · split at h
      · simp only [List.mem_cons] at h ⊢; tauto
      · simp only [List.mem_cons] at h ⊢; tauto

/-- The empty store, which is the reset state's, is in canonical form. -/
theorem storeWellFormed_reset : storeWellFormed State.reset.queue.store = true := rfl

end Sys2Proof.Machine
end

