-- ==== Sys2Proof/Laws/Queue.lean ====
section
/-!
SUPPORT. The queue operations keep the queue's invariant (10_state.md R32), and QGET and QPEEK find a written slot
in every state that has it.
-/
namespace Sys2Proof.Machine

theorem QueueInv.fresh (p : Params) (hc : 1 ≤ p.capacity) : QueueInv p Queue.fresh where
  capacity_pos := hc
  size_le := Nat.zero_le _
  head_lt := hc
  tail_lt := hc
  full_iff := by simp [Queue.fresh]; omega
  tail_eq := by simp [Queue.fresh]
  size_le_hwm := Nat.le_refl _
  hwm_le := Nat.zero_le _
  occupied := by intro j hj; exact absurd hj (Nat.not_lt_zero _)
  canonical := rfl
  slots_lt := by intro e he; cases he
  puts_lt := by simp [Queue.fresh]
  gets_lt := by simp [Queue.fresh]
  overflows_lt := by simp [Queue.fresh]

theorem QueueInv.reject {p : Params} {q : Queue} (h : QueueInv p q) : QueueInv p (queueReject p q) :=
  { h with overflows_lt := Nat.mod_lt _ (Nat.two_pow_pos _) }

/-- A queue with the invariant that is not full has room. -/
theorem QueueInv.room {p : Params} {q : Queue} (h : QueueInv p q) (hf : q.full = false) : q.size < p.capacity := by
  have hne : q.size ≠ p.capacity := fun e => by simpa [hf] using h.full_iff.mpr e
  exact Nat.lt_of_le_of_ne h.size_le hne

theorem QueueInv.add {p : Params} {q : Queue} (h : QueueInv p q) (hf : q.full = false) (m : Message) :
    QueueInv p (queueAdd p m q) where
  capacity_pos := h.capacity_pos
  size_le := h.room hf
  head_lt := h.head_lt
  tail_lt := Nat.mod_lt _ h.capacity_pos
  full_iff := by simp [queueAdd, fullAfterPut, hf]
  tail_eq := by simp only [queueAdd, nextIndex, h.tail_eq, Nat.mod_add_mod, Nat.add_assoc]
  size_le_hwm := by simp only [queueAdd]; split <;> omega
  hwm_le := by simp only [queueAdd]; have := h.hwm_le; have := h.room hf; split <;> omega
  occupied := by
    intro j hj
    simp only [queueAdd, readSlot_writeSlot]
    split
    · rfl
    · rename_i hne
      refine h.occupied j (Nat.lt_of_le_of_ne (Nat.lt_succ_iff.mp hj) ?_)
      rintro rfl; exact hne h.tail_eq.symm
  canonical := storeWellFormed_writeSlot _ _ _ h.canonical
  slots_lt := by
    intro e he
    rcases mem_writeSlot he with rfl | he
    · exact h.tail_lt
    · exact h.slots_lt e he
  puts_lt := Nat.mod_lt _ (Nat.two_pow_pos _)
  gets_lt := h.gets_lt
  overflows_lt := h.overflows_lt

theorem QueueInv.put {p : Params} {q : Queue} (h : QueueInv p q) (m : Message) : QueueInv p (queuePut p m q) := by
  unfold queuePut
  cases hf : q.full with
  | true => simpa using h.reject
  | false => simpa using h.add hf m

theorem QueueInv.front {p : Params} {q : Queue} (h : QueueInv p q) (hs : 0 < q.size) (life : Nat) :
    readSlot q.head q.store = some (queueFront life q) := by
  have := h.occupied 0 hs
  rw [Nat.add_zero, Nat.mod_eq_of_lt h.head_lt] at this
  obtain ⟨m, hm⟩ := Option.isSome_iff_exists.mp this
  simp [queueFront, hm]

theorem QueueInv.drop {p : Params} {q : Queue} (h : QueueInv p q) (hs : 0 < q.size) : QueueInv p (queueDrop p q) := by
  have hc := h.capacity_pos
  constructor
  · exact hc
  · show q.size - 1 ≤ _; have := h.size_le; omega
  · exact Nat.mod_lt _ hc
  · exact h.tail_lt
  · show (false = true) ↔ q.size - 1 = _; have := h.size_le; simp; omega
  · show q.tail = _
    rw [h.tail_eq]
    show _ = ((q.head + 1) % p.capacity + (q.size - 1)) % _
    rw [Nat.mod_add_mod]; congr 1; omega
  · show q.size - 1 ≤ q.hwm; have := h.size_le_hwm; omega
  · exact h.hwm_le
  · intro j hj
    have := h.occupied (j + 1) (by simp [queueDrop] at hj; omega)
    show (readSlot (((q.head + 1) % p.capacity + j) % p.capacity) q.store).isSome = true
    rw [Nat.mod_add_mod]
    rwa [show q.head + 1 + j = q.head + (j + 1) by omega]
  · exact h.canonical
  · exact h.slots_lt
  · exact h.puts_lt
  · exact Nat.mod_lt _ (Nat.two_pow_pos _)
  · exact h.overflows_lt

theorem QueueInv.clear {p : Params} {q : Queue} (h : QueueInv p q) : QueueInv p (queueClear q) where
  capacity_pos := h.capacity_pos
  size_le := Nat.zero_le _
  head_lt := h.capacity_pos
  tail_lt := h.capacity_pos
  full_iff := by have := h.capacity_pos; simp [queueClear, fullCleared]; omega
  tail_eq := by simp [queueClear]
  size_le_hwm := Nat.zero_le _
  hwm_le := h.hwm_le
  occupied := by intro j hj; exact absurd hj (Nat.not_lt_zero _)
  canonical := h.canonical
  slots_lt := h.slots_lt
  puts_lt := h.puts_lt
  gets_lt := h.gets_lt
  overflows_lt := h.overflows_lt

/-- QGET keeps the invariant. -/
theorem QueueInv.get {p : Params} {q : Queue} (h : QueueInv p q) (life : Nat) : QueueInv p (queueGet p life q).2 := by
  unfold queueGet
  split
  · exact h
  · exact h.drop (by omega)

end Sys2Proof.Machine
end

