-- ==== Sys2Proof/Laws/Invoke.lean ====
section
/-!
SUPPORT. What an invocation can do, said once: it is a sequence of the operations of R252 and of sets and gets
of the Configuration store, so a relation that holds across each of these holds across the invocation, and across a pass.
-/
namespace Sys2Proof.Machine

variable {R : State → State → Prop}

/-- A relation between states that the things an invoked party can do keep: it is reflexive and transitive, holds
across each operation of R252, given that it holds across the hand-off's invocation, and across a CFG set and get. -/
structure Kept (R : State → State → Prop) : Prop where
  refl : ∀ s, R s s
  trans : ∀ s t u, R s t → R t u → R s u
  operation : ∀ enumerate i s t, (∀ a b, enumerate a = .next b → R a b) →
    serviceOperation enumerate i s = .next t → R s t
  setCfg : ∀ w s, R s (storeCfg w s)
  getCfg : ∀ f s, R s (answering (cfgAnswer f s) s)

theorem Kept.runBehaviour (h : Kept R) (b : Behaviour) :
    ∀ s r, runBehaviour b s = .next r → R s r.2 := by
  induction b with
  | done c => intro s r hr; cases hr; exact h.refl s
  | hang => intro s r hr; cases hr
  | takeFrame => intro s r hr; cases hr
  | setCfg w rest ih =>
    intro s r hr
    obtain ⟨t, ht, hrest⟩ := andThen_eq_next.mp hr
    obtain ⟨-, rfl⟩ := setCfg_eq_next.mp ht
    exact h.trans _ _ _ (h.setCfg w s) (ih _ _ hrest)
  | getCfg f rest ih => intro s r hr; exact h.trans _ _ _ (h.getCfg f s) (ih _ _ hr)
  | request bytes nested rest ihn ih =>
    intro s r hr
    obtain ⟨t, ht, hrest⟩ := andThen_eq_next.mp hr
    refine h.trans _ _ _ ?_ (ih _ _ hrest)
    unfold serviceRequest at ht
    split at ht
    · cases ht
    · split at ht
      · cases ht
      · refine h.operation _ _ _ _ ?_ ht
        intro a b hab
        obtain ⟨r', hr', hb⟩ := andThen_eq_next.mp hab
        cases hb; exact ihn _ _ hr'

/-- Across one invocation; the draw of the behaviour changes only the outside agents' scripts. -/
theorem Kept.invoke (h : Kept R) (hd : ∀ s, R s { s with env := (drawBehaviour s.env).2 })
    {s : State} {r : Bool × State} (hr : invoke s = .next r) : R s r.2 :=
  h.trans _ _ _ (hd s) (h.runBehaviour _ _ _ hr)

theorem Kept.invokeHook (h : Kept R) (hd : ∀ s, R s { s with env := (drawBehaviour s.env).2 })
    {s t : State} (ht : invokeHook s = .next t) : R s t := by
  obtain ⟨r, hr, hb⟩ := andThen_eq_next.mp ht
  cases hb; exact h.invoke hd hr

/-- Across one invocation of a handler, which answers. -/
theorem Kept.invokeHandler (h : Kept R) (hd : ∀ s, R s { s with env := (drawBehaviour s.env).2 })
    (he : ∀ c s, R s (emit (.handlerAnswer c) s)) {s : State} {r : Bool × State}
    (hr : invokeHandler s = .next r) : R s r.2 := by
  obtain ⟨r', hr', hb⟩ := andThen_eq_next.mp hr
  cases hb; exact h.trans _ _ _ (h.invoke hd hr') (he _ _)

end Sys2Proof.Machine
end

