-- ==== Sys2Proof/Laws/PerInstr.lean ====
section
/-!
SUPPORT. A family of per-instruction facts: the encoding of an instruction has the number of bytes its row has (one code
byte and the operand bytes of 30_encoding.md R89; nine bytes of a FRAME or MSG vector; one byte of the enumerations).
-/
namespace Sys2Proof.Laws.EncodedLength

/-- The bytes of the row of spec/opcode_table.json an instruction belongs to. -/
def rowBytes (i : Instr) : Nat :=
  match (encode i).port, (encode i).bytes with
  | .host, c :: _ => commandLength c.toNat
  | .internal, c :: _ => commandLength c.toNat
  | .frame _, _ => 9
  | .msg, _ => 9
  | _, _ => 1

/-- The encoding has the row's number of bytes. -/
def Statement (i : Instr) : Prop := (encode i).bytes.length = rowBytes i

theorem reset : Statement .reset := rfl
theorem process (maxMessages : Byte) : Statement (.process maxMessages) := rfl
theorem pUi : Statement .pUi := rfl
theorem drain (maxMessages : Byte) : Statement (.drain maxMessages) := rfl
theorem housekeep (act : Byte) : Statement (.housekeep act) := rfl
theorem fhCall : Statement .fhCall := rfl
theorem rawdisp : Statement .rawdisp := rfl
theorem activity : Statement .activity := rfl
theorem decdisp : Statement .decdisp := rfl
theorem svcInit : Statement .svcInit := rfl
theorem qput (m : Message) : Statement (.qput m) := rfl
theorem qget : Statement .qget := rfl
theorem qpeek : Statement .qpeek := rfl
theorem qavail : Statement .qavail := rfl
theorem qclear : Statement .qclear := rfl
theorem qsize : Statement .qsize := rfl
theorem qfull : Statement .qfull := rfl
theorem qputs : Statement .qputs := rfl
theorem qgets : Statement .qgets := rfl
theorem qovf : Statement .qovf := rfl
theorem qhwm : Statement .qhwm := rfl
theorem minit : Statement .minit := rfl
theorem mreneg : Statement .mreneg := rfl
theorem mconfirm : Statement .mconfirm := rfl
theorem mtimeout : Statement .mtimeout := rfl
theorem mrevert : Statement .mrevert := rfl
theorem msetslim : Statement .msetslim := rfl
theorem museract (act : Byte) : Statement (.museract act) := rfl
theorem indicate (v : Indication) : Statement (.indicate v) := rfl
theorem enumStart : Statement .enumStart := rfl
theorem send (m : Message) : Statement (.send m) := rfl
theorem sendnn (opc : Byte) : Statement (.sendnn opc) := rfl
theorem sendRqnn : Statement .sendRqnn := rfl
theorem sendNnrel : Statement .sendNnrel := rfl
theorem sendWrack : Statement .sendWrack := rfl
theorem sendCmderr (err : Byte) : Statement (.sendCmderr err) := rfl
theorem sendGrsp (opc svcType result : Byte) : Statement (.sendGrsp opc svcType result) := rfl
theorem fExt (rtr : Bool) (len : BitVec 4) (data : Payload) (hdr : Nat) : Statement (.fExt rtr len data hdr) := rfl
theorem fZero (rtr : Bool) (data : Payload) (hdr : Nat) : Statement (.fZero rtr data hdr) := rfl
theorem fStd (rtr : Bool) (len : BitVec 4) (data : Payload) (hdr : Nat) : Statement (.fStd rtr len data hdr) := rfl
theorem fIllegal (ext rtr : Bool) (len : BitVec 4) (data : Payload) (hdr : Nat) : Statement (.fIllegal ext rtr len data hdr) := rfl
theorem rqnn (nn : NodeNumber) (d3 d4 d5 d6 d7 : Byte) : Statement (.rqnn nn d3 d4 d5 d6 d7) := rfl
theorem nnrel (nn : NodeNumber) (d3 d4 d5 d6 d7 : Byte) : Statement (.nnrel nn d3 d4 d5 d6 d7) := rfl
theorem wrack (nn : NodeNumber) (d3 d4 d5 d6 d7 : Byte) : Statement (.wrack nn d3 d4 d5 d6 d7) := rfl
theorem cmderr (nn : NodeNumber) (err d4 d5 d6 d7 : Byte) : Statement (.cmderr nn err d4 d5 d6 d7) := rfl
theorem grsp (nn : NodeNumber) (opc svcType result d6 d7 : Byte) : Statement (.grsp nn opc svcType result d6 d7) := rfl
theorem actNone (code : Byte) : Statement (.actNone code) := rfl
theorem actChangeMode : Statement .actChangeMode := rfl
theorem actRenegotiate : Statement .actRenegotiate := rfl
theorem actEnumeration : Statement .actEnumeration := rfl
theorem indSlim : Statement .indSlim := rfl
theorem indFlim : Statement .indFlim := rfl
theorem indModechanging : Statement .indModechanging := rfl
theorem ansNotClaimed : Statement .ansNotClaimed := rfl
theorem ansClaimed : Statement .ansClaimed := rfl

end Sys2Proof.Laws.EncodedLength
end

