-- ==== Sys2Proof/Certificates/Slice0/Obligations.lean ====
section
/-!
DEFINITION. The statements for the provers, each a Prop about the machine. Where a docstring says that a clause is the
model's choice it names the log entry (notes/assumptions/). In all of them the outside agents are scripts in the state
(log 7), a party that never returns is the fault `neverReturns` (log 9), and requests are admitted, and inputs from
outside taken, as log 10, 17, 18, 19 and 28 say.
-/
open Sys2Proof Sys2Proof.Machine

/-! ### Encoding and decoding -/

/-- Every well-formed instruction is read back from the packet the encoder writes for it. -/
def Obligations.EncodedInstructionIsReadBack : Prop :=
  ∀ i : Instr, i.wellFormed = true → decode (encode i) = .ok i

/-- What the decoder accepts stands for a word of the table and its encoding is the very bytes that were read: no two
packets of one format are one instruction, and no bit is dropped. -/
def Obligations.DecodedInstructionHasThoseBytes : Prop :=
  ∀ (p : Packet) (i : Instr), decode p = .ok i → i.wellFormed = true ∧ (encode i).bytes = p.bytes

/-- A few words written out from the encoding tables decode to the instructions they stand for (R81, R86, R89, R92 to
R94; the words of 95_test_vectors.md). -/
def Obligations.WrittenWordsDecode : Prop :=
  decode ⟨.host, [0x01#8, 0x03#8]⟩ = .ok (.process 0x03#8) ∧
  decode ⟨.host, [0x10#8, 0x01#8, 0x0A#8, 0#8, 0#8, 0#8, 0#8, 0#8, 0#8, 0#8]⟩ =
    .ok (.qput ⟨1#4, ⟨0x0A#8, 0#8, 0#8, 0#8, 0#8, 0#8, 0#8, 0#8⟩⟩) ∧
  decode ⟨.host, [0x46#8, 0x73#8, 0x01#8, 0x00#8]⟩ = .ok (.sendGrsp 0x73#8 0x01#8 0x00#8) ∧
  decode ⟨.internal, [0x27#8, 0x02#8]⟩ = .ok (.indicate .modeChanging) ∧
  decode ⟨.internal, [0x04#8, 0x03#8]⟩ = .ok (.housekeep 0x03#8) ∧
  decode ⟨.frame 7, [0x28#8, 1#8, 2#8, 3#8, 4#8, 5#8, 6#8, 7#8, 8#8]⟩ =
    .ok (.fExt false 8#4 ⟨1#8, 2#8, 3#8, 4#8, 5#8, 6#8, 7#8, 8#8⟩ 7) ∧
  decode ⟨.msg, [0x03#8, 0x51#8, 0xFF#8, 0xFE#8, 0#8, 0#8, 0#8, 0#8, 0#8]⟩ =
    .ok (.nnrel 0xFFFE#16 0#8 0#8 0#8 0#8 0#8) ∧
  decode ⟨.act, [0x07#8]⟩ = .ok (.actNone 0x07#8) ∧
  decode ⟨.ans, [0x01#8]⟩ = .ok .ansClaimed

/-- The four frame classes by `ext` (bit 69) and `len` (bits 67:64) of the 70-bit vector; `rtr` (bit 68) selects
nothing (30_encoding.md R81, R84). -/
def Obligations.FramesFallIntoTheirClasses : Prop :=
  ∀ (hdr : Nat) (h d0 d1 d2 d3 d4 d5 d6 d7 : Byte), h.toNat < 64 →
    decode ⟨.frame hdr, [h, d0, d1, d2, d3, d4, d5, d6, d7]⟩ =
      .ok (if 8 < h.toNat % 16 then
          .fIllegal (decide (32 ≤ h.toNat)) (decide (16 ≤ h.toNat % 32)) (BitVec.ofNat 4 h.toNat)
            ⟨d0, d1, d2, d3, d4, d5, d6, d7⟩ hdr
        else if 32 ≤ h.toNat then
          .fExt (decide (16 ≤ h.toNat % 32)) (BitVec.ofNat 4 h.toNat) ⟨d0, d1, d2, d3, d4, d5, d6, d7⟩ hdr
        else if h.toNat % 16 = 0 then
          .fZero (decide (16 ≤ h.toNat % 32)) ⟨d0, d1, d2, d3, d4, d5, d6, d7⟩ hdr
        else
          .fStd (decide (16 ≤ h.toNat % 32)) (BitVec.ofNat 4 h.toNat) ⟨d0, d1, d2, d3, d4, d5, d6, d7⟩ hdr)

/-- Encodings that spell no operation are rejected by name: a code outside the table of R89, and a `len` byte of QPUT
or SEND above 8 or with non-zero high bits (30_encoding.md R97 (ii), (iii)). -/
def Obligations.IllegalCommandsAreRejected : Prop :=
  (∀ (c : Byte) (rest : List Byte),
    c.toNat ∉ [0x00, 0x01, 0x02, 0x03, 0x04, 0x05, 0x06, 0x07, 0x08, 0x09, 0x10, 0x11, 0x12, 0x13, 0x14, 0x15, 0x16,
      0x17, 0x18, 0x19, 0x1A, 0x20, 0x21, 0x22, 0x23, 0x24, 0x25, 0x26, 0x27, 0x30, 0x40, 0x41, 0x42, 0x43, 0x44,
      0x45, 0x46] →
    decodeRequest (c :: rest) = .error (.unknownCommand c)) ∧
  (∀ l d0 d1 d2 d3 d4 d5 d6 d7 : Byte, 8 < l.toNat →
    decodeRequest [0x10#8, l, d0, d1, d2, d3, d4, d5, d6, d7] = .error (.illegalMessageLength l) ∧
    decodeRequest [0x40#8, l, d0, d1, d2, d3, d4, d5, d6, d7] = .error (.illegalMessageLength l))

/-! ### The step -/

/-- When the next input's bytes decode to an instruction, and a request of the host is one the host may make while
the block is idle, the step is that instruction's meaning on the state with the input taken; with no input to come
nothing executes (70_reset_and_hazards.md R242). Two things here are the model's choice: that an idle step is a step at
all (log 10), and that a CMD packet of the port internal is executed in any phase even where its code has no `I` in
R89, such as RESET, QPUT and SEND_WRACK, for which the spec has neither an issuer nor a refusal (log 39). -/
def Obligations.StepRunsTheDecodedInstruction : Prop :=
  (∀ (s : State) (p : Packet) (rest : List Input) (i : Instr),
    s.inbox = .word p :: rest → decode p = .ok i →
    (p.port = .host → s.seq = .idle ∧ hostMay i = true) →
    step s = exec i { s with inbox := rest }) ∧
  (∀ s : State, s.inbox = [] → step s = .next s)

/-- A request of the host is refused by name where the spec gives it no meaning: any request while an operation is in
progress (U4), a code that is internal only, whatever its operands (30_encoding.md R97 (iv)), a code outside the table
(R97 (iii)) and an illegal `len` byte (R97 (ii)). Three things are the model's choice. A request with too few or too many
bytes is refused malformedWord, a name outside R219's list (log 28). While an operation is in progress bytes that spell no
operation are refused for the bytes, not as re-entry (log 28). And a well-formed request for an internal-only code is
then refused as re-entry, although R97 (iv) applies to it as well (log 17): the spec orders these refusals nowhere. -/
def Obligations.HostRequestsAreAdmittedOrRefused : Prop :=
  ∀ (s : State) (bytes : List Byte) (rest : List Input), s.inbox = .word ⟨.host, bytes⟩ :: rest →
    (∀ i, decodeRequest bytes = .ok i → s.seq ≠ .idle → step s = .refused .reentrantProcess) ∧
    (∀ i, decodeRequest bytes = .ok i → s.seq = .idle →
      (i = .pUi ∨ (∃ n, i = .drain n) ∨ (∃ a, i = .housekeep a) ∨ i = .fhCall ∨ i = .rawdisp ∨ i = .activity ∨
        i = .decdisp ∨ i = .svcInit ∨ i = .mtimeout ∨ (∃ a, i = .museract a) ∨ (∃ v, i = .indicate v) ∨
        i = .enumStart ∨ i = .sendRqnn ∨ i = .sendNnrel) → step s = .refused .internalCommand) ∧
    (∀ (c : Byte) (operands : List Byte) (e : DecodeError),
      bytes = c :: operands → decodeRequest bytes = .error e →
      if c.toNat ∈ [0x02, 0x03, 0x04, 0x05, 0x06, 0x07, 0x08, 0x09, 0x23, 0x26, 0x27, 0x30, 0x42, 0x43] then
        step s = .refused .internalCommand
      else match e with
        | .unknownCommand _ => step s = .refused .unknownCommand
        | .illegalMessageLength _ => step s = .refused .illegalMessageLength
        | _ => step s = .refused .malformedWord) ∧
    (bytes = [] → step s = .refused .malformedWord)

/-- A set of the Configuration store by another agent writes its one field, and one out of range is refused
(10_state.md R40). -/
def Obligations.OutsideSetsOfTheConfigurationStore : Prop :=
  ∀ (s : State) (w : CfgWrite) (rest : List Input), s.inbox = .cfgSet w :: rest →
    match w with
    | .nn v => step s = .next { s with
        inbox := rest, cfg := { s.cfg with nn := v }, trace := s.trace ++ [.cfgSet w] }
    | .canid v =>
      if v.toNat ≤ 127 then ∃ t, step s = .next t ∧ t.cfg.canid.toNat = v.toNat ∧
        t = { s with inbox := rest, cfg := { s.cfg with canid := t.cfg.canid }, trace := s.trace ++ [.cfgSet w] }
      else step s = .refused .illegalConfigValue
    | .mode v =>
      if v.toNat ≤ 1 then ∃ t, step s = .next t ∧ t.cfg.mode.toNat = v.toNat ∧
        t = { s with inbox := rest, cfg := { s.cfg with mode := t.cfg.mode }, trace := s.trace ++ [.cfgSet w] }
      else step s = .refused .illegalConfigValue

/-! ### Construction and reset -/

/-- A construction with a parameter outside its range is refused, and one with legal parameters gives the block with
every element at its reset value over the given Configuration content, and runs every service's initializer once, in
registration order (70_reset_and_hazards.md R240, R241, R245; 41_service_pipeline.md R130); here the initializers return
at once. That the transport's buffer, the clock, the agents' scripts, the record of transactions and the requests to come
go on over a construction is the model's choice (log 19), and `lives` is its own counter (log 2). -/
def Obligations.ConstructionChecksItsParameters : Prop :=
  ∀ (s : State) (p : Params) (nn : NodeNumber) (canid mode : Byte) (rest : List Input) (answers : List Bool)
    (more : List Behaviour), s.inbox = .powerOn p nn canid mode :: rest →
    ((p.capacity < 1 ∨ 255 < p.capacity ∨ 255 < p.services.length ∨ 255 < p.whitelist.length ∨
      2 ^ p.clockWidth ≤ p.timeoutMs ∨ p.counterWidth < 1 ∨ 127 < canid.toNat ∨ 1 < mode.toNat) →
      step s = .refused .illegalParameter) ∧
    ((1 ≤ p.capacity ∧ p.capacity ≤ 255 ∧ p.services.length ≤ 255 ∧ p.whitelist.length ≤ 255 ∧
      p.timeoutMs < 2 ^ p.clockWidth ∧ 1 ≤ p.counterWidth ∧ canid.toNat ≤ 127 ∧ mode.toNat ≤ 1) →
      answers.length = p.services.length → s.env.behaviours = answersAtOnce answers ++ more →
      ∃ t, step s = .next t ∧ t.par = p ∧ t.lives = s.lives + 1 ∧ t.queue = Queue.fresh ∧ t.frameHeld = false ∧
        t.seq = .idle ∧ t.act = 0x00#8 ∧ t.changing = false ∧ t.cfg.nn = nn ∧ t.cfg.canid.toNat = canid.toNat ∧
        t.cfg.mode.toNat = mode.toNat ∧ t.env = { s.env with behaviours := more } ∧
        t.trace = s.trace ++ (List.range p.services.length).map Event.svcInit ∧ t.inbox = rest)

/-- The reset values of 10_state.md R47 that the spec gives: the queue is empty with every index and counter 0 and no
slot written, FRM and MSG have no value, the sequencer is IDLE, no action, no negotiation, capacity 4. -/
def Obligations.ResetStateHoldsTheSpecsValues : Prop :=
  State.reset.queue.head = 0 ∧ State.reset.queue.tail = 0 ∧ State.reset.queue.size = 0 ∧
  State.reset.queue.full = false ∧ State.reset.queue.puts = 0 ∧ State.reset.queue.gets = 0 ∧
  State.reset.queue.overflows = 0 ∧ State.reset.queue.hwm = 0 ∧ (∀ i, readSlot i State.reset.queue.store = none) ∧
  State.reset.frameHeld = false ∧ State.reset.seq = .idle ∧ State.reset.act = 0x00#8 ∧
  State.reset.changing = false ∧ State.reset.par.capacity = 4 ∧ State.reset.par.timeoutMs = 30000

/-- RESET gives the block its reset values, keeps the Configuration store, and runs every service's initializer once,
in registration order (70_reset_and_hazards.md R240, R244; 41_service_pipeline.md R130); here the initializers return at
once. The rest is the model's choice: the transport's buffer, the clock, the agents' scripts, the record of transactions
and the requests to come go on over a construction (log 19), `started` and the fields of FRM and MSG take the model's
values, and `lives` is its own counter (log 2, 3). -/
def Obligations.ResetRebuildsTheBlock : Prop :=
  ∀ (s : State) (answers : List Bool) (more : List Behaviour),
    legalConstruction s.par 0x00#8 0x00#8 = true → answers.length = serviceCount s →
    s.env.behaviours = answersAtOnce answers ++ more →
    exec .reset s = .next { State.reset with
      par := s.par, lives := s.lives + 1, cfg := s.cfg, inbox := s.inbox
      env := { s.env with behaviours := more }
      trace := s.trace ++ (List.range (serviceCount s)).map Event.svcInit }

/-! ### The queue -/

/-- QPUT (code 0x10, the `len` byte, `data[0..7]`) of a legal Message: when not full the entry is stored at `tail` and
every other slot, index and counter is as R110 says; when full only `overflows` changes; a longer Message is refused
(30_encoding.md R97 (ii)). -/
def Obligations.QputStoresOrRejectsTheNewest : Prop :=
  ∀ (m : Message) (s : State),
    (m.len.toNat ≤ 8 → ∃ l : Byte, l.toNat = m.len.toNat ∧
      decode ⟨.host, [0x10#8, l, m.data.d0, m.data.d1, m.data.d2, m.data.d3, m.data.d4, m.data.d5, m.data.d6,
        m.data.d7]⟩ = .ok (.qput m)) ∧
    (m.len.toNat ≤ 8 → s.queue.full = false →
      ∃ t, exec (.qput m) s = .next t ∧ t = { s with queue := t.queue, answer := .nothing } ∧
        (∀ j, readSlot j t.queue.store = if j = s.queue.tail then some m else readSlot j s.queue.store) ∧
        t.queue.head = s.queue.head ∧ t.queue.tail = (s.queue.tail + 1) % s.par.capacity ∧
        t.queue.size = s.queue.size + 1 ∧ t.queue.full = decide (t.queue.size = s.par.capacity) ∧
        t.queue.puts = (s.queue.puts + 1) % 2 ^ s.par.counterWidth ∧ t.queue.gets = s.queue.gets ∧
        t.queue.overflows = s.queue.overflows ∧ t.queue.hwm = max s.queue.hwm t.queue.size) ∧
    (m.len.toNat ≤ 8 → s.queue.full = true →
      exec (.qput m) s = .next { s with
        queue := { s.queue with overflows := (s.queue.overflows + 1) % 2 ^ s.par.counterWidth }
        answer := .nothing }) ∧
    (8 < m.len.toNat → exec (.qput m) s = .refused .illegalMessageLength)

/-- QGET (code 0x11): on an empty queue the absent result and nothing changes; otherwise the entry at `head`, and
`head`, `size`, `full` and `gets` as R111 says (40_queue.md R111). In a state whose slot at `head` was never written,
which no run from reset reaches, the entry answered is a free value (log 4). -/
def Obligations.QgetTakesTheOldest : Prop :=
  decode ⟨.host, [0x11#8]⟩ = .ok .qget ∧
  ∀ s : State,
    (s.queue.size = 0 → exec .qget s = .next { s with answer := .absent }) ∧
    (0 < s.queue.size → ∃ m, (∀ n, readSlot s.queue.head s.queue.store = some n → m = n) ∧
      exec .qget s = .next { s with
        answer := .message m
        queue := { s.queue with
          head := (s.queue.head + 1) % s.par.capacity
          size := s.queue.size - 1
          full := false
          gets := (s.queue.gets + 1) % 2 ^ s.par.counterWidth } })

/-- QPEEK (code 0x12): "same as `get()` but does not mutate state; absent result if empty" (40_queue.md R112); so two
peeks answer the same, and a get after a peek answers the same entry again. In a state whose slot at `head` was never
written, which no run from reset reaches, the entry answered is a free value (log 4). -/
def Obligations.QpeekReadsTheOldest : Prop :=
  decode ⟨.host, [0x12#8]⟩ = .ok .qpeek ∧
  ∀ s : State,
    (s.queue.size = 0 → exec .qpeek s = .next { s with answer := .absent }) ∧
    (0 < s.queue.size → ∃ m, (∀ n, readSlot s.queue.head s.queue.store = some n → m = n) ∧
      exec .qpeek s = .next { s with answer := .message m } ∧
      exec .qpeek { s with answer := .message m } = .next { s with answer := .message m } ∧
      ∃ t, exec .qget { s with answer := .message m } = .next t ∧ t.answer = .message m)

/-- QCLEAR (code 0x14) resets `head`, `tail`, `size` and `full` and leaves the slots and the lifetime counters
(40_queue.md R114). -/
def Obligations.QclearKeepsTheCounters : Prop :=
  decode ⟨.host, [0x14#8]⟩ = .ok .qclear ∧
  ∀ s : State, exec .qclear s = .next { s with
    answer := .nothing
    queue := { s.queue with head := 0, tail := 0, size := 0, full := false } }

/-- The accessors, codes 0x13 and 0x15 to 0x1A, are pure reads of `size > 0`, `size`, `full`, `puts`, `gets`,
`overflows` and `hwm`; after QCLEAR QAVAIL answers 0 (40_queue.md R113, R115 to R120). -/
def Obligations.QueueAccessorsAreReads : Prop :=
  decode ⟨.host, [0x13#8]⟩ = .ok .qavail ∧ decode ⟨.host, [0x15#8]⟩ = .ok .qsize ∧
  decode ⟨.host, [0x16#8]⟩ = .ok .qfull ∧ decode ⟨.host, [0x17#8]⟩ = .ok .qputs ∧
  decode ⟨.host, [0x18#8]⟩ = .ok .qgets ∧ decode ⟨.host, [0x19#8]⟩ = .ok .qovf ∧
  decode ⟨.host, [0x1A#8]⟩ = .ok .qhwm ∧
  ∀ s : State,
    (∀ t, exec .qclear s = .next t → exec .qavail t = .next { t with answer := .bit false }) ∧
    exec .qavail s = .next { s with answer := .bit (decide (s.queue.size > 0)) } ∧
    exec .qsize s = .next { s with answer := .byte (BitVec.ofNat 8 s.queue.size) } ∧
    exec .qfull s = .next { s with answer := .bit s.queue.full } ∧
    exec .qputs s = .next { s with answer := .counter s.queue.puts } ∧
    exec .qgets s = .next { s with answer := .counter s.queue.gets } ∧
    exec .qovf s = .next { s with answer := .counter s.queue.overflows } ∧
    exec .qhwm s = .next { s with answer := .byte (BitVec.ofNat 8 s.queue.hwm) }

/-- "first put is first gotten": on every queue with the invariant of R32, a stored put appends to the contents, a
rejected one leaves them, a get answers and removes the first, a peek answers the first and leaves them, and a clear
empties them. -/
def Obligations.QueueIsFirstInFirstOut : Prop :=
  ∀ s : State, QueueInv s.par s.queue →
    (∀ m, m.len.toNat ≤ 8 → ∃ t, exec (.qput m) s = .next t ∧
      queueContents s.par t.queue =
        if s.queue.size < s.par.capacity then queueContents s.par s.queue ++ [m] else queueContents s.par s.queue) ∧
    (∃ t, exec .qget s = .next t ∧
      match queueContents s.par s.queue with
      | [] => t.answer = .absent ∧ t.queue = s.queue
      | m :: rest => t.answer = .message m ∧ queueContents s.par t.queue = rest) ∧
    (∃ t, exec .qpeek s = .next t ∧ t.queue = s.queue ∧
      t.answer = match queueContents s.par s.queue with
        | [] => .absent
        | m :: _ => .message m) ∧
    (∃ t, exec .qclear s = .next t ∧ queueContents s.par t.queue = [])

/-- "after any sequence of N puts into an empty queue of capacity C" the high-water mark "equals `min(N, C)`"
(10_state.md R31; 40_queue.md R120); so does `size`, and `overflows` counts the rest (R121 (2)). -/
def Obligations.HighWaterMarkAfterPuts : Prop :=
  ∀ (p : Params) (ms : List Message), 1 ≤ p.capacity →
    (ms.foldl (fun q m => queuePut p m q) Queue.fresh).hwm = min ms.length p.capacity ∧
    (ms.foldl (fun q m => queuePut p m q) Queue.fresh).size = min ms.length p.capacity ∧
    (ms.foldl (fun q m => queuePut p m q) Queue.fresh).overflows =
      (ms.length - p.capacity) % 2 ^ p.counterWidth ∧
    queueContents p (ms.foldl (fun q m => queuePut p m q) Queue.fresh) = ms.take p.capacity

/-! ### The mode machine -/

/-- MINIT (code 0x20) and MRENEG (code 0x21) in every state: the indication, one request-node-number message with the
node number now in the Configuration store, a clock sample kept in `started`, and `changing` set; whatever the send is
answered, and nothing else of the block changes (42_mode_fsm.md R151, R152). -/
def Obligations.NegotiationBegins : Prop :=
  decode ⟨.host, [0x20#8]⟩ = .ok .minit ∧ decode ⟨.host, [0x21#8]⟩ = .ok .mreneg ∧
  ∀ (i : Instr) (s : State), AllReturn s → i = .minit ∨ i = .mreneg →
    ∃ ok e e', exec i s = .next { s with
        env := e'
        started := e'.time % 2 ^ s.par.clockWidth
        changing := true
        answer := .nothing
        trace := s.trace ++ shownMode s 0x02#8 ++
          [.transportSend [s.par.opcRqnn, nnHigh s.cfg.nn, nnLow s.cfg.nn] ok,
            .clockNow (e'.time % 2 ^ s.par.clockWidth)] } ∧
      SendDrawn s.env e ok ∧ ClockDrawn e e'

/-- MCONFIRM (code 0x22) in every state, with no bus-address service registered, or with one whose entry point returns
at once: `changing` cleared, CFG.MODE set to FLiM, the indication, then the hand-off (42_mode_fsm.md R153;
43_enumeration.md R170). -/
def Obligations.ConfirmationEntersFlim : Prop :=
  decode ⟨.host, [0x22#8]⟩ = .ok .mconfirm ∧
  ∀ s : State, AllReturn s →
    (findService s.par.svcIdCan s.par.services = none →
      exec .mconfirm s = .next { s with
        changing := false, cfg := { s.cfg with mode := 1#1 }, answer := .nothing
        trace := s.trace ++ [.cfgSet (.mode 0x01#8)] ++ shownMode s 0x01#8 }) ∧
    (∀ i claimed rest, findService s.par.svcIdCan s.par.services = some i →
      s.env.behaviours = .done claimed :: rest →
      exec .mconfirm s = .next { s with
        changing := false, cfg := { s.cfg with mode := 1#1 }, answer := .nothing
        env := { s.env with behaviours := rest }
        trace := s.trace ++ [.cfgSet (.mode 0x01#8)] ++ shownMode s 0x01#8 ++ [.svcEnumerate i] })

/-- ENUM_START: the first registered bus-address service's entry point is invoked, here one that returns at once;
without such a service nothing happens (43_enumeration.md R170). The service is the one `FIND(id)` answers, "the least
index `i` with `SVC[i].id = id`, or `none` when no entry has that identifier" (41_service_pipeline.md R138). -/
def Obligations.EnumerationIsHandedOff : Prop :=
  (∀ s : State,
    (findService s.par.svcIdCan s.par.services = none → exec .enumStart s = .next { s with answer := .nothing }) ∧
    (∀ i claimed rest, findService s.par.svcIdCan s.par.services = some i →
      s.env.behaviours = .done claimed :: rest →
      exec .enumStart s = .next { s with
        answer := .nothing, env := { s.env with behaviours := rest }, trace := s.trace ++ [.svcEnumerate i] })) ∧
  (∀ (id : Byte) (services : List Service),
    (∀ i, findService id services = some i ↔
      (∃ svc, services[i]? = some svc ∧ svc.id = id) ∧ ∀ j < i, ∀ svc, services[j]? = some svc → svc.id ≠ id) ∧
    (findService id services = none ↔ ∀ svc ∈ services, svc.id ≠ id))

/-- MTIMEOUT (code 0x23, internal) in every state: outside ModeChanging nothing happens and the clock is not sampled;
in it the clock is sampled, and when the elapsed time modulo 2^CLKW has reached TIMEOUT_MS the mode the Configuration
store records is indicated and `changing` cleared; nothing else changes (42_mode_fsm.md R155). -/
def Obligations.TimeoutIsJudgedByTheClock : Prop :=
  decode ⟨.internal, [0x23#8]⟩ = .ok .mtimeout ∧
  ∀ s : State,
    (s.changing = false → exec .mtimeout s = .next { s with answer := .nothing }) ∧
    (s.changing = true → ∃ e, ClockDrawn s.env e ∧
      (subModulo s.par.clockWidth (e.time % 2 ^ s.par.clockWidth) s.started < s.par.timeoutMs →
        exec .mtimeout s = .next { s with
          env := e, answer := .nothing
          trace := s.trace ++ [.clockNow (e.time % 2 ^ s.par.clockWidth)] }) ∧
      (s.par.timeoutMs ≤ subModulo s.par.clockWidth (e.time % 2 ^ s.par.clockWidth) s.started → AllReturn s →
        exec .mtimeout s = .next { s with
          env := e, changing := false, answer := .nothing
          trace := s.trace ++ [.clockNow (e.time % 2 ^ s.par.clockWidth)] ++
            shownMode s (BitVec.setWidth 8 s.cfg.mode) }))

/-- The timer law: with `started` the sample of true time `t0`, the check at true time `t` fires exactly when
`(t - t0) mod 2^CLKW >= TIMEOUT_MS`, which for `t - t0 < 2^CLKW` is `t - t0 >= TIMEOUT_MS` whatever the counter's
absolute value (42_mode_fsm.md R161). -/
def Obligations.TimerSurvivesRollover : Prop :=
  ∀ (s : State) (t0 : Nat), AllReturn s → s.changing = true → t0 ≤ s.env.time → s.started = t0 % 2 ^ s.par.clockWidth →
    ∃ t, exec .mtimeout s = .next t ∧ s.env.time ≤ t.env.time ∧
      (t.changing = false ↔ s.par.timeoutMs ≤ (t.env.time - t0) % 2 ^ s.par.clockWidth) ∧
      (t.env.time - t0 < 2 ^ s.par.clockWidth → (t.changing = false ↔ s.par.timeoutMs ≤ t.env.time - t0))

/-- MREVERT (code 0x24) in every state: exactly one release-node-number message with the node number still held, then
the three sets, the flag and the indication; whatever the send is answered (42_mode_fsm.md R156). -/
def Obligations.RevertReleasesThenClears : Prop :=
  decode ⟨.host, [0x24#8]⟩ = .ok .mrevert ∧
  ∀ s : State, AllReturn s → ∃ ok e, SendDrawn s.env e ok ∧
    exec .mrevert s = .next { s with
      env := e
      cfg := { nn := 0#16, canid := 0#7, mode := 0#1 }
      changing := false
      answer := .nothing
      trace := s.trace ++ [.transportSend [s.par.opcNnrel, nnHigh s.cfg.nn, nnLow s.cfg.nn] ok,
        .cfgSet (.nn 0x0000#16), .cfgSet (.mode 0x00#8), .cfgSet (.canid 0x00#8)] ++ shownMode s 0x00#8 }

/-- MSETSLIM (code 0x25) in every state: the three sets in the order NN, mode, CANID, `changing` cleared, the
indication, and nothing sent (42_mode_fsm.md R157). -/
def Obligations.SetSlimSendsNothing : Prop :=
  decode ⟨.host, [0x25#8]⟩ = .ok .msetslim ∧
  ∀ s : State, AllReturn s → exec .msetslim s = .next { s with
    cfg := { nn := 0#16, canid := 0#7, mode := 0#1 }
    changing := false
    answer := .nothing
    trace := s.trace ++ [.cfgSet (.nn 0x0000#16), .cfgSet (.mode 0x00#8), .cfgSet (.canid 0x00#8)] ++
      shownMode s 0x00#8 }

/-- MUSERACT (code 0x26, internal): `change-mode` is MINIT when CFG.MODE is 0 and MREVERT when it is 1, `renegotiate`
is MRENEG, and every other action byte does nothing; `changing` is not consulted (42_mode_fsm.md R158). -/
def Obligations.UserActionSelectsTheTransition : Prop :=
  (∀ a : Byte, decode ⟨.internal, [0x26#8, a]⟩ = .ok (.museract a)) ∧
  ∀ s : State,
    (s.cfg.mode = 0#1 → exec (.museract 0x01#8) s = exec .minit s) ∧
    (s.cfg.mode = 1#1 → exec (.museract 0x01#8) s = exec .mrevert s) ∧
    exec (.museract 0x02#8) s = exec .mreneg s ∧
    (∀ a : Byte, a ≠ 0x01#8 → a ≠ 0x02#8 → exec (.museract a) s = .next { s with answer := .nothing }) ∧
    (AllReturn s → ∀ a : Byte, ∃ t, exec (.museract a) s = .next t)

/-- INDICATE, ACTIVITY and the IND rows: the code, or the activity, is indicated when there is a UI, and nothing of
the block changes (42_mode_fsm.md R150; 30_encoding.md R93; 44_dispatcher_cycle.md R182; that an IND row is indicated
is the model's reading, log 15). -/
def Obligations.IndicationsAreShown : Prop :=
  ∀ (s : State) (v : Indication), AllReturn s →
    exec (.indicate v) s = .next { s with
      answer := .nothing
      trace := s.trace ++ shownMode s (match v with | .slim => 0x00#8 | .flim => 0x01#8 | .modeChanging => 0x02#8) } ∧
    exec .indSlim s = exec (.indicate .slim) s ∧
    exec .indFlim s = exec (.indicate .flim) s ∧
    exec .indModechanging s = exec (.indicate .modeChanging) s ∧
    exec .activity s = .next { s with answer := .nothing, trace := s.trace ++ shownActivity s }

/-- The state graph of 42_mode_fsm.md R154 over (`changing`, CFG.MODE), for MINIT and MRENEG, which restart the timer,
for MREVERT, MSETSLIM and MTIMEOUT, expired and not, and for MCONFIRM where the hand-off finds no service. -/
def Obligations.ModeStateGraph : Prop :=
  ∀ (i : Instr) (s t : State), exec i s = .next t →
    (i = .minit ∨ i = .mreneg →
      modeState t = .modeChanging ∧ t.cfg = s.cfg ∧ t.started = t.env.time % 2 ^ s.par.clockWidth) ∧
    (i = .mrevert ∨ i = .msetslim → modeState t = .slim ∧ t.cfg = { nn := 0#16, canid := 0#7, mode := 0#1 }) ∧
    (i = .mconfirm → findService s.par.svcIdCan s.par.services = none →
      modeState t = .flim ∧ t.cfg = { s.cfg with mode := 1#1 }) ∧
    (i = .mtimeout → t.cfg = s.cfg ∧ t.started = s.started ∧
      (s.changing = false → modeState t = modeState s) ∧
      (s.changing = true →
        modeState t =
          if subModulo s.par.clockWidth (t.env.time % 2 ^ s.par.clockWidth) s.started < s.par.timeoutMs then
            .modeChanging
          else if s.cfg.mode = 0#1 then .slim else .flim))

/-! ### Sending -/

/-- SEND (code 0x40, the `len` byte, `data[0..7]`) of a legal Message: its first `len` bytes are handed to the
transport once, the requester gets the transport's answer, and nothing else of the block changes, `ok` or `fail`; a
longer Message is refused (45_wire_messages.md R195). -/
def Obligations.SendHandsOverTheMessage : Prop :=
  ∀ (m : Message) (s : State),
    (m.len.toNat ≤ 8 → ∃ l : Byte, l.toNat = m.len.toNat ∧
      decode ⟨.host, [0x40#8, l, m.data.d0, m.data.d1, m.data.d2, m.data.d3, m.data.d4, m.data.d5, m.data.d6,
        m.data.d7]⟩ = .ok (.send m)) ∧
    (m.len.toNat ≤ 8 → AllReturn s → ∃ ok e, SendDrawn s.env e ok ∧
      exec (.send m) s = .next { s with
        env := e, answer := .bit ok
        trace := s.trace ++ [.transportSend
          ([m.data.d0, m.data.d1, m.data.d2, m.data.d3, m.data.d4, m.data.d5, m.data.d6, m.data.d7].take m.len.toNat)
          ok] }) ∧
    (8 < m.len.toNat → exec (.send m) s = .refused .illegalMessageLength)

/-- SENDNN (code 0x41 and the opcode byte), SEND_RQNN, SEND_NNREL, SEND_WRACK: three bytes, the opcode and the node
number now in the Configuration store, high byte first (45_wire_messages.md R196 to R199; 30_encoding.md R88). -/
def Obligations.ShortMessagesCarryTheNodeNumber : Prop :=
  (∀ opc : Byte, decode ⟨.host, [0x41#8, opc]⟩ = .ok (.sendnn opc)) ∧
  ∀ (i : Instr) (opc : Byte) (s : State), AllReturn s →
    (i = .sendnn opc ∨ i = .sendRqnn ∧ opc = s.par.opcRqnn ∨ i = .sendNnrel ∧ opc = s.par.opcNnrel ∨
      i = .sendWrack ∧ opc = s.par.opcWrack) →
    ∃ ok e hi lo, SendDrawn s.env e ok ∧ s.cfg.nn = hi ++ lo ∧
      exec i s = .next { s with env := e, answer := .bit ok, trace := s.trace ++ [.transportSend [opc, hi, lo] ok] }

/-- SEND_CMDERR and SEND_GRSP: four and six bytes, the operands passed through unchanged (45_wire_messages.md R200,
R201). -/
def Obligations.LongMessagesCarryTheirOperands : Prop :=
  ∀ s : State, AllReturn s →
    (∀ err : Byte, ∃ ok e hi lo, SendDrawn s.env e ok ∧ s.cfg.nn = hi ++ lo ∧
      exec (.sendCmderr err) s = .next { s with
        env := e, answer := .bit ok, trace := s.trace ++ [.transportSend [s.par.opcCmderr, hi, lo, err] ok] }) ∧
    (∀ opc svcType result : Byte, ∃ ok e hi lo, SendDrawn s.env e ok ∧ s.cfg.nn = hi ++ lo ∧
      exec (.sendGrsp opc svcType result) s = .next { s with
        env := e, answer := .bit ok
        trace := s.trace ++ [.transportSend [s.par.opcGrsp, hi, lo, opc, svcType, result] ok] })

/-- The rows RQNN, NNREL, WRACK, CMDERR and GRSP hand the message of 30_encoding.md R87 with the node number they
carry to the transport; the bytes past `len` are not presented (that the row does this is the model's reading, log
13). -/
def Obligations.WireMessageRowsAreSent : Prop :=
  ∀ (i : Instr) (s : State) (nn : NodeNumber) (hi lo d3 d4 d5 d6 d7 : Byte) (presentedBytes : List Byte),
    AllReturn s → nn = hi ++ lo →
    (i = .rqnn nn d3 d4 d5 d6 d7 ∧ presentedBytes = [s.par.opcRqnn, hi, lo] ∨
      i = .nnrel nn d3 d4 d5 d6 d7 ∧ presentedBytes = [s.par.opcNnrel, hi, lo] ∨
      i = .wrack nn d3 d4 d5 d6 d7 ∧ presentedBytes = [s.par.opcWrack, hi, lo] ∨
      i = .cmderr nn d3 d4 d5 d6 d7 ∧ presentedBytes = [s.par.opcCmderr, hi, lo, d3] ∨
      i = .grsp nn d3 d4 d5 d6 d7 ∧ presentedBytes = [s.par.opcGrsp, hi, lo, d3, d4, d5]) →
    ∃ ok e, SendDrawn s.env e ok ∧
      exec i s = .next { s with env := e, answer := .bit ok, trace := s.trace ++ [.transportSend presentedBytes ok] }

/-! ### The service pipeline -/

/-- HOUSEKEEP invokes every registered service's hook with the action, and SVC_INIT every service's initializer, once
each, in registration order, and nothing else of the block changes; here they return at once (41_service_pipeline.md
R130, R131). -/
def Obligations.HooksAndInitializersRunInOrder : Prop :=
  ∀ (s : State) (a : Byte) (answers : List Bool) (more : List Behaviour),
    answers.length = serviceCount s → s.env.behaviours = answersAtOnce answers ++ more →
    exec (.housekeep a) s = .next { s with
      answer := .nothing
      env := { s.env with behaviours := more }
      trace := s.trace ++ (List.range (serviceCount s)).map fun j => Event.svcHousekeep j a } ∧
    exec .svcInit s = .next { s with
      answer := .nothing
      env := { s.env with behaviours := more }
      trace := s.trace ++ (List.range (serviceCount s)).map Event.svcInit }

/-- RAWDISP: whatever the handlers do, they are invoked with FRM in registration order; and where they answer at once,
exactly those up to the first that claims are invoked, all when none does (41_service_pipeline.md R133, R136). -/
def Obligations.RawPassStopsAtTheFirstClaim : Prop :=
  (∀ (s : State) (answers : List Bool) (more : List Behaviour),
    s.frameHeld = true → answers.length = serviceCount s → s.env.behaviours = answersAtOnce answers ++ more →
    exec .rawdisp s = .next { s with
      answer := .nothing
      env := { s.env with behaviours := answersAtOnce (answers.drop (invokedCount answers)) ++ more }
      trace := s.trace ++ (List.range (invokedCount answers)).flatMap fun j =>
        [Event.svcRaw j s.frm, .handlerAnswer (answers.getD j false)] }) ∧
  (∀ (s t : State), s.frameHeld = true → exec .rawdisp s = .next t → ∃ es k, t.trace = s.trace ++ es ∧ k ≤ serviceCount s ∧
    es.filter isRawCall = (List.range k).map fun j => Event.svcRaw j s.frm)

/-- DECDISP on a frame of class F_STD: whatever the handlers do, they are invoked with the opcode `data[0]` of MSG and
MSG itself in registration order; and where they answer at once, exactly those up to the first that claims are
invoked, all when none does. On an extended or empty frame nobody is invoked (41_service_pipeline.md R134, R136;
30_encoding.md R98 (ii)). -/
def Obligations.DecodedPassStopsAtTheFirstClaim : Prop :=
  (∀ (s : State) (answers : List Bool) (more : List Behaviour),
    s.frameHeld = true → answers.length = serviceCount s → s.env.behaviours = answersAtOnce answers ++ more →
    s.frm.ext = false → s.frm.len.toNat ≠ 0 →
      exec .decdisp s = .next { s with
        answer := .nothing
        env := { s.env with behaviours := answersAtOnce (answers.drop (invokedCount answers)) ++ more }
        trace := s.trace ++ (List.range (invokedCount answers)).flatMap fun j =>
          [Event.svcMsg j s.msg.data.d0 s.msg, .handlerAnswer (answers.getD j false)] }) ∧
  (∀ (s t : State), s.frameHeld = true → exec .decdisp s = .next t → ∃ es k, t.trace = s.trace ++ es ∧
    k ≤ serviceCount s ∧
    es.filter isDecodedCall = (List.range k).map fun j => Event.svcMsg j s.msg.data.d0 s.msg) ∧
  (∀ s : State, s.frameHeld = true → (s.frm.ext = true ∨ s.frm.len.toNat = 0) →
    exec .decdisp s = .next { s with answer := .nothing })

/-- FH_CALL: the callback, when there is one, gets MSG when the whitelist is empty, or when the frame is neither
extended nor empty and its opcode is listed; it is invoked at most once, here returning at once
(41_service_pipeline.md R132). -/
def Obligations.CallbackIsFilteredByTheWhitelist : Prop :=
  ∀ s : State,
    (s.par.callbackPresent = false → exec .fhCall s = .next { s with answer := .nothing }) ∧
    (∀ claimed rest, s.par.callbackPresent = true → s.frameHeld = true →
      s.env.behaviours = .done claimed :: rest →
      (s.par.whitelist = [] ∨
        s.frm.ext = false ∧ s.frm.len.toNat > 0 ∧ s.msg.data.d0 ∈ s.par.whitelist →
        exec .fhCall s = .next { s with
          answer := .nothing, env := { s.env with behaviours := rest }, trace := s.trace ++ [.callback s.msg] }) ∧
      (s.par.whitelist ≠ [] →
        s.frm.ext = true ∨ s.frm.len.toNat = 0 ∨ s.msg.data.d0 ∉ s.par.whitelist →
        exec .fhCall s = .next { s with answer := .nothing }))

/-- FRM and MSG have no value before the first frame is drained (10_state.md R21, R22, R45). FH_CALL, RAWDISP and
DECDISP run then all the same, with some frame and some Message in their place of which nothing is said
(93_implementation_defined.md U9, `any value`; that of U9's two treatments this one is taken is the model's choice,
log 2), and leave the two registers as unwritten as they were. -/
def Obligations.UnwrittenFrameReadsAsAnyValue : Prop :=
  ∀ s : State, s.frameHeld = false → ∃ (f : Frame) (m : Message), ∀ i : Instr,
    (i = .fhCall ∨ i = .rawdisp ∨ i = .decdisp) →
    ∀ t, exec i { s with frameHeld := true, frm := f, msg := m } = .next t →
      exec i s = .next { t with frameHeld := false, frm := s.frm, msg := s.msg }

/-- What an invoked party may do (70_reset_and_hazards.md R252): each listed operation is executed at once as `exec`
executes it, MCONFIRM with the hand-off's service doing what the request says of it, and the CFG sets and gets take
effect; then the party goes on. PROCESS, RESET and the internal operations, an illegal CFG set, bytes that are no
operation and a call of `Transport.next()` are refused by name, and a party that does not return leaves the block in
its operation (60_exceptions.md R220, R222; 30_encoding.md R97; 10_state.md R40; R253). The name internalCommand for
RESET (log 18), the refusal of `Transport.next()` even where a frame waits (log 22), and malformedWord (log 28) are
the model's choices. -/
def Obligations.InvokedPartiesAreHeldToTheList : Prop :=
  ∀ (s : State) (bytes : List Byte) (nested rest : Behaviour),
    (∀ i, decodeRequest bytes = .ok i →
      ((∃ m, i = .qput m) ∨ i = .qget ∨ i = .qpeek ∨ i = .qavail ∨ i = .qclear ∨ i = .qsize ∨ i = .qfull ∨
        i = .qputs ∨ i = .qgets ∨ i = .qovf ∨ i = .qhwm ∨ i = .minit ∨ i = .mreneg ∨ i = .mrevert ∨ i = .msetslim ∨
        (∃ m, i = .send m) ∨ (∃ opc, i = .sendnn opc) ∨ i = .sendWrack ∨ (∃ err, i = .sendCmderr err) ∨
        (∃ opc svcType result, i = .sendGrsp opc svcType result)) →
      runBehaviour (.request bytes nested rest) s = andThen (exec i s) (runBehaviour rest)) ∧
    (decodeRequest bytes = .ok .mconfirm →
      runBehaviour (.request bytes nested rest) s =
        andThen (exec .mconfirm
          (if findService s.par.svcIdCan s.par.services = none then s
            else { s with env := { s.env with behaviours := nested :: s.env.behaviours } })) (runBehaviour rest)) ∧
    (∀ n, decodeRequest bytes = .ok (.process n) →
      runBehaviour (.request bytes nested rest) s = .refused .reentrantProcess) ∧
    (∀ i, decodeRequest bytes = .ok i →
      (i = .reset ∨ i = .pUi ∨ (∃ n, i = .drain n) ∨ (∃ a, i = .housekeep a) ∨ i = .fhCall ∨ i = .rawdisp ∨
        i = .activity ∨ i = .decdisp ∨ i = .svcInit ∨ i = .mtimeout ∨ (∃ a, i = .museract a) ∨
        (∃ v, i = .indicate v) ∨ i = .enumStart ∨ i = .sendRqnn ∨ i = .sendNnrel) →
      runBehaviour (.request bytes nested rest) s = .refused .internalCommand) ∧
    (∀ (c : Byte) (operands : List Byte) (e : DecodeError),
      bytes = c :: operands → decodeRequest bytes = .error e →
      runBehaviour (.request bytes nested rest) s = .refused
        (if c.toNat ∈ [0x02, 0x03, 0x04, 0x05, 0x06, 0x07, 0x08, 0x09, 0x23, 0x26, 0x27, 0x30, 0x42, 0x43] then
          .internalCommand
        else match e with
          | .unknownCommand _ => .unknownCommand
          | .illegalMessageLength _ => .illegalMessageLength
          | _ => .malformedWord)) ∧
    (∀ v, runBehaviour (.setCfg (.nn v) rest) s =
      runBehaviour rest { s with cfg := { s.cfg with nn := v }, trace := s.trace ++ [.cfgSet (.nn v)] }) ∧
    (∀ v : BitVec 7, runBehaviour (.setCfg (.canid (BitVec.setWidth 8 v)) rest) s =
      runBehaviour rest { s with
        cfg := { s.cfg with canid := v }, trace := s.trace ++ [.cfgSet (.canid (BitVec.setWidth 8 v))] }) ∧
    (∀ v : BitVec 1, runBehaviour (.setCfg (.mode (BitVec.setWidth 8 v)) rest) s =
      runBehaviour rest { s with
        cfg := { s.cfg with mode := v }, trace := s.trace ++ [.cfgSet (.mode (BitVec.setWidth 8 v))] }) ∧
    (∀ v : Byte, 127 < v.toNat → runBehaviour (.setCfg (.canid v) rest) s = .refused .illegalConfigValue) ∧
    (∀ v : Byte, 1 < v.toNat → runBehaviour (.setCfg (.mode v) rest) s = .refused .illegalConfigValue) ∧
    runBehaviour (.getCfg .nn rest) s = runBehaviour rest { s with answer := .cfgNn s.cfg.nn } ∧
    runBehaviour (.getCfg .canid rest) s = runBehaviour rest { s with answer := .cfgCanid s.cfg.canid } ∧
    runBehaviour (.getCfg .mode rest) s = runBehaviour rest { s with answer := .cfgMode s.cfg.mode } ∧
    runBehaviour .takeFrame s = .refused .nextWithoutAvailable ∧
    runBehaviour .hang s = .fault .neverReturns

/-- "Extended or zero-length frames never reach any decoded-message handler, regardless of their opcode byte content"
(44_dispatcher_cycle.md R187), whatever the services do: in a DRAIN or a PROCESS every decoded-message handler that is
invoked gets the opcode and the Message of the frame retrieved last, which is neither extended nor empty; and the rows
F_EXT and F_ZERO invoke none (that a row is the work on one retrieved frame is the model's reading, log 12). -/
def Obligations.ExtendedAndEmptyFramesAreNeverDecoded : Prop :=
  (∀ (s t : State) (n : Byte) (i : Instr), (i = .drain n ∨ i = .process n) → exec i s = .next t →
    ∃ es, t.trace = s.trace ++ es ∧
      ∀ before j opc m after, es = before ++ .svcMsg j opc m :: after →
        ∃ earlier f between, before = earlier ++ .transportNext f :: between ∧
          (∀ e ∈ between, isRetrieval e = false) ∧
          f.ext = false ∧ f.len.toNat ≠ 0 ∧ opc = f.data.d0 ∧ m = ⟨f.len, f.data⟩) ∧
  (∀ (s t : State) (rtr : Bool) (len : BitVec 4) (data : Payload) (hdr : Nat) (i : Instr),
    (i = .fExt rtr len data hdr ∨ i = .fZero rtr data hdr) → exec i s = .next t →
    ∃ es, t.trace = s.trace ++ es ∧ ∀ e ∈ es, isDecodedCall e = false)

/-! ### The cycle -/

/-- P_UI: with a UI it runs, is asked once, and its answer is latched and answered, and a UI that never returns hangs
the block; without one the action is `none` (44_dispatcher_cycle.md R176; 60_exceptions.md R222). -/
def Obligations.UiIsPolledOnce : Prop :=
  ∀ s : State,
    (s.par.uiPresent = false → exec .pUi s = .next { s with act := 0x00#8, answer := .byte 0x00#8 }) ∧
    (∀ a rest, s.par.uiPresent = true → s.env.turns = .answers a :: rest →
      exec .pUi s = .next { s with
        act := a, answer := .byte a, env := { s.env with turns := rest }
        trace := s.trace ++ [.uiRun, .uiRequestedAction a] }) ∧
    (∀ rest, s.par.uiPresent = true → s.env.turns = .hangs :: rest → exec .pUi s = .fault .neverReturns)

/-- DRAIN, whatever the services do (44_dispatcher_cycle.md R179 to R183): while the count allows, the transport is
asked; when it has no frame the loop ends; else the next frame is retrieved, refused when its length is no length,
becomes FRM and MSG, and goes through the callback, the raw pass, the activity indication and, when it is neither
extended nor empty, the decoded pass, before the loop goes on. So with no services and no callback, over a transport
that gets no further frame, the first `maxMessages` frames, or all if fewer, are retrieved in order, the rest stay,
and FRM and MSG hold the last. That the transport gives its oldest frame first is the model's choice (log 38). -/
def Obligations.DrainDispatchesFrameByFrame : Prop :=
  (∀ (s : State) (n : Byte) (batch : List Frame) (more : List (List Frame)),
    AllReturn s → n ≠ 0x00#8 → s.env.arrivals = batch :: more →
    match s.env.rx ++ batch with
    | [] => exec (.drain n) s =
      .next { s with answer := .nothing, env := { s.env with rx := [], arrivals := more } }
    | f :: rest =>
      if 8 < f.len.toNat then exec (.drain n) s = .refused .illegalFrameLength
      else exec (.drain n) s =
        andThen (exec .fhCall { s with
          env := { s.env with rx := rest, arrivals := more }, trace := s.trace ++ [.transportNext f]
          frm := f, msg := ⟨f.len, f.data⟩, frameHeld := true }) fun a =>
        andThen (exec .rawdisp a) fun b =>
        andThen (exec .activity b) fun c =>
        andThen (if f.ext = false ∧ f.len.toNat ≠ 0 then exec .decdisp c else .next c) (exec (.drain (n - 0x01#8)))) ∧
  (∀ (s : State) (n : Byte), AllReturn s → s.par.services = [] → s.par.callbackPresent = false →
    n.toNat ≤ s.env.arrivals.length → (∀ batch ∈ s.env.arrivals, batch = []) → lawfulFrames s.env.rx = true →
    ∃ t, exec (.drain n) s = .next t ∧ t.env.rx = s.env.rx.drop n.toNat ∧
      t.trace = s.trace ++ (s.env.rx.take n.toNat).flatMap (fun f => .transportNext f :: shownActivity s) ∧
      (∀ f, (s.env.rx.take n.toNat).getLast? = some f →
        t.frm = f ∧ t.msg = ⟨f.len, f.data⟩ ∧ t.frameHeld = true) ∧
      ((s.env.rx.take n.toNat) = [] → t.frm = s.frm ∧ t.msg = s.msg ∧ t.frameHeld = s.frameHeld) ∧
      t = { s with
        env := { s.env with rx := t.env.rx, arrivals := t.env.arrivals }
        trace := t.trace, frm := t.frm, msg := t.msg, frameHeld := t.frameHeld, answer := .nothing })

/-- Whatever arrives and whatever the services do, DRAIN retrieves at most `maxMessages` frames; with `maxMessages` 0
it does nothing at all (44_dispatcher_cycle.md R179 (a), (b)). -/
def Obligations.DrainIsBounded : Prop :=
  (∀ s : State, exec (.drain 0x00#8) s = .next { s with answer := .nothing }) ∧
  (∀ (s t : State) (n : Byte), exec (.drain n) s = .next t →
    ∃ es, t.trace = s.trace ++ es ∧ (es.filter isRetrieval).length ≤ n.toNat)

/-- A frame with a length above 8 is refused where it is retrieved, and so is its row (60_exceptions.md R221;
30_encoding.md R84, R97 (i)). -/
def Obligations.IllegalFrameLengthIsRefused : Prop :=
  (∀ (ext rtr : Bool) (len : BitVec 4) (data : Payload) (hdr : Nat) (s : State),
    exec (.fIllegal ext rtr len data hdr) s = .refused .illegalFrameLength) ∧
  (∀ (s : State) (f : Frame) (rest : List Frame), AllReturn s → s.env.rx = f :: rest → 8 < f.len.toNat →
    transportNext s = .refused .illegalFrameLength) ∧
  (∀ s : State, AllReturn s → s.env.rx = [] → transportNext s = .refused .nextWithoutAvailable)

/-- "PROCESS requested while `seq` is not `IDLE`, that is by a service, a hook or the callback during its invocation,
is refused" (60_exceptions.md R220): by the meaning itself, and in every invocation, which the invoked party does not
survive, whatever it would have done next. -/
def Obligations.ReentrantProcessIsRefused : Prop :=
  ∀ (s : State) (n : Byte),
    (s.seq ≠ .idle → exec (.process n) s = .refused .reentrantProcess) ∧
    (∀ nested rest, runBehaviour (.request [0x01#8, n] nested rest) s = .refused .reentrantProcess) ∧
    (∀ nested rest more, s.env.behaviours = .request [0x01#8, n] nested rest :: more →
      s.par.services ≠ [] → ∀ a, exec (.housekeep a) s = .refused .reentrantProcess)

/-- PROCESS, whatever the services do, is its five steps in order: the UI is polled, the action applied, the hooks
run, the frames are drained, and last the timeout is judged (44_dispatcher_cycle.md R175 to R179, R184; 30_encoding.md
R101). With a UI, no services, no callback and an empty transport that is the poll, the action and the timeout check.
-/
def Obligations.CycleIsItsFiveSteps : Prop :=
  (∀ (s : State) (n : Byte), s.seq = .idle →
    exec (.process n) s =
      andThen (exec .pUi s) fun t =>
      andThen (exec (.museract t.act) t) fun u =>
      andThen (exec (.housekeep t.act) u) fun v =>
      andThen (exec (.drain n) v) fun w =>
      exec .mtimeout w) ∧
  ∀ (s : State) (n : Byte) (a : Byte) (rest : List UiTurn) (more : List (List Frame)), AllReturn s →
    s.seq = .idle → s.par.services = [] → s.par.callbackPresent = false → s.par.uiPresent = true →
    s.env.turns = .answers a :: rest → s.env.rx = [] → s.env.arrivals = [] :: more →
    ∃ t u v, exec .pUi s = .next t ∧ exec (.museract a) t = .next u ∧ exec .mtimeout u = .next v ∧
      exec (.process n) s = .next { v with
        env := { v.env with arrivals := if n = 0x00#8 then [] :: more else more } }

/-- A negotiation that nobody confirms: `change-mode` in SLiM sends exactly one request-node-number message and enters
ModeChanging; the check of a later cycle fires exactly when the time since the sample, modulo 2^CLKW, has reached
TIMEOUT_MS, and then the flag is clear and the mode is what the Configuration store records (42_mode_fsm.md R162). -/
def Obligations.UnansweredNegotiationTimesOut : Prop :=
  ∀ (s : State) (n m : Byte) (ok : Bool) (sends : List Bool) (d1 d2 d3 : Nat) (ticks : List Nat) (a : Byte)
    (turns : List UiTurn) (more : List (List Frame)), AllReturn s →
    s.seq = .idle → s.par.services = [] → s.par.callbackPresent = false → s.par.uiPresent = true →
    s.cfg.mode = 0#1 → s.env.turns = .answers 0x01#8 :: .answers a :: turns → a ≠ 0x01#8 → a ≠ 0x02#8 →
    s.env.sends = ok :: sends → s.env.ticks = d1 :: d2 :: d3 :: ticks →
    s.env.rx = [] → s.env.arrivals = [] :: [] :: more →
    s.par.timeoutMs < 2 ^ s.par.clockWidth → d2 < s.par.timeoutMs →
    ∃ t u, exec (.process n) s = .next t ∧ exec (.process m) t = .next u ∧
      modeState t = .modeChanging ∧ t.cfg = s.cfg ∧ u.cfg = s.cfg ∧ u.seq = .idle ∧
      (u.changing = false ↔ s.par.timeoutMs ≤ (d2 + d3) % 2 ^ s.par.clockWidth) ∧
      (u.changing = false → modeState u = .slim) ∧
      ∃ es, u.trace = s.trace ++ es ∧
        es.filter (fun e => match e with | .transportSend _ _ => true | _ => false) =
          [.transportSend [s.par.opcRqnn, nnHigh s.cfg.nn, nnLow s.cfg.nn] ok]

/-- When every outside agent keeps its obligations, a cycle always ends, with the sequencer IDLE again, whatever the
services request, whatever frames arrive and whatever the user asks (44_dispatcher_cycle.md R185). -/
def Obligations.LawfulCycleAlwaysEnds : Prop :=
  ∀ (s : State) (n : Byte), Inv s → s.seq = .idle →
    LawfulEnv (serviceCount s + n.toNat * (1 + 2 * serviceCount s)) n.toNat s.env →
    ∃ t, exec (.process n) s = .next t ∧ t.seq = .idle ∧ Inv t

/-- The operations that invoke services or the callback complete when every invoked party keeps its obligations,
whatever it requests: the passes, the hand-off, MCONFIRM and RESET (41_service_pipeline.md R130 to R137;
70_reset_and_hazards.md R252); and so do the frame rows and the action rows, in the model's reading of what a row does
(log 12, 14), and the passes before any frame is drained (log 2). -/
def Obligations.LawfulInvocationsComplete : Prop :=
  ∀ (s : State) (a : Byte) (rtr : Bool) (len : BitVec 4) (data : Payload) (hdr : Nat) (i : Instr),
    Inv s → LawfulEnv (1 + 2 * serviceCount s) 0 s.env → len.toNat ≤ 8 →
    (i = .housekeep a ∨ i = .svcInit ∨ i = .reset ∨ i = .enumStart ∨ i = .mconfirm ∨ i = .actNone a ∨
      i = .actChangeMode ∨ i = .actRenegotiate ∨ i = .actEnumeration ∨
      i = .fExt rtr len data hdr ∨ i = .fZero rtr data hdr ∨ i = .fStd rtr len data hdr ∨
      i = .fhCall ∨ i = .rawdisp ∨ i = .decdisp) →
    ∃ t, exec i s = .next t ∧ Inv t

/-- The frame rows with no services and no callback: the frame becomes FRM and MSG, the activity is indicated, and
nothing else changes (44_dispatcher_cycle.md R180 to R183; that a row stands for the work on one retrieved frame is
the model's reading, log 12). -/
def Obligations.FrameRowsHoldTheFrame : Prop :=
  ∀ (s : State) (f : Frame) (i : Instr), AllReturn s → s.par.services = [] →
    s.par.callbackPresent = false → f.len.toNat ≤ 8 →
    (i = .fExt f.rtr f.len f.data f.hdr ∧ f.ext = true ∨
      i = .fZero f.rtr f.data f.hdr ∧ f.ext = false ∧ f.len.toNat = 0 ∨
      i = .fStd f.rtr f.len f.data f.hdr ∧ f.ext = false ∧ f.len.toNat ≠ 0) →
    exec i s = .next { s with
      frm := f, msg := ⟨f.len, f.data⟩, frameHeld := true, answer := .nothing
      trace := s.trace ++ shownActivity s }

/-- A frame of class F_STD with services that answer at once and no callback: the raw pass up to its first claim, the
activity indication, then the decoded pass up to its first claim, keyed by `data[0]`; a claim in the first does not
touch the second (44_dispatcher_cycle.md R181; 41_service_pipeline.md R135; that the row F_STD is the work on one
retrieved frame is the model's reading, log 12). -/
def Obligations.PassesAreIndependent : Prop :=
  ∀ (s : State) (f : Frame) (raw dec : List Bool) (more : List Behaviour), AllReturn s → s.par.callbackPresent = false →
    f.ext = false → f.len.toNat ≠ 0 → f.len.toNat ≤ 8 →
    raw.length = serviceCount s → dec.length = serviceCount s →
    s.env.behaviours =
      answersAtOnce (raw.take (invokedCount raw)) ++ answersAtOnce (dec.take (invokedCount dec)) ++ more →
    exec (.fStd f.rtr f.len f.data f.hdr) s = .next { s with
      frm := f, msg := ⟨f.len, f.data⟩, frameHeld := true, answer := .nothing
      env := { s.env with behaviours := more }
      trace := s.trace ++
        (List.range (invokedCount raw)).flatMap (fun j =>
          [Event.svcRaw j f, .handlerAnswer (raw.getD j false)]) ++
        shownActivity s ++
        (List.range (invokedCount dec)).flatMap (fun j =>
          [Event.svcMsg j f.data.d0 ⟨f.len, f.data⟩, .handlerAnswer (dec.getD j false)]) }

/-- The action rows: the action is latched, applied as MUSERACT applies it, and passed to every hook, which here
return at once; every code but 1 and 2 is only passed on (30_encoding.md R92; 42_mode_fsm.md R158; 43_enumeration.md
R171). That a row stands for steps 1 to 3 on its action is the model's reading, and that it does so with no UI to report
it the model's choice (log 14). -/
def Obligations.ActionRowsAreAppliedAndPassedOn : Prop :=
  ∀ (s : State) (a : Byte) (i : Instr) (answers : List Bool) (more : List Behaviour),
    AllReturn s → answers.length = serviceCount s → s.env.behaviours = answersAtOnce answers ++ more →
    (i = .actNone a ∧ (a.toNat = 0 ∨ 3 < a.toNat) ∨ i = .actChangeMode ∧ a = 0x01#8 ∨
      i = .actRenegotiate ∧ a = 0x02#8 ∨ i = .actEnumeration ∧ a = 0x03#8) →
    ∃ u, exec (.museract a) { s with act := a } = .next u ∧
      exec i s = .next { u with
        env := { u.env with behaviours := more }
        trace := u.trace ++ (List.range (serviceCount s)).map fun j => Event.svcHousekeep j a } ∧
      (a ≠ 0x01#8 → a ≠ 0x02#8 → u = { s with act := a, answer := .nothing })

/-- The answer rows: `claimed` stops the pass in progress; `not-claimed` goes on to the next service, and past the
last one the pass ends; with no handler invoked the row is refused (30_encoding.md R94; 41_service_pipeline.md R133,
R134; the refusal and where the sequencer goes after a pass are the model's, log 16). -/
def Obligations.AnswersMoveThePass : Prop :=
  ∀ (s : State) (mcount j : Nat),
    (s.seq = .p4Drain mcount .raw j →
      exec .ansClaimed s = .next { s with
        seq := .p4Drain mcount .activity 0, trace := s.trace ++ [.handlerAnswer true] } ∧
      exec .ansNotClaimed s = .next { s with
        seq := if j + 1 < serviceCount s then .p4Drain mcount .raw (j + 1) else .p4Drain mcount .activity 0
        trace := s.trace ++ [.handlerAnswer false] }) ∧
    (s.seq = .p4Drain mcount .dec j →
      exec .ansClaimed s = .next { s with
        seq := .p4Drain mcount .fh 0, trace := s.trace ++ [.handlerAnswer true] } ∧
      exec .ansNotClaimed s = .next { s with
        seq := if j + 1 < serviceCount s then .p4Drain mcount .dec (j + 1) else .p4Drain mcount .fh 0
        trace := s.trace ++ [.handlerAnswer false] }) ∧
    (s.seq = .idle → exec .ansClaimed s = .refused .answerOutsideHandler ∧
      exec .ansNotClaimed s = .refused .answerOutsideHandler)

/-! ### The whole machine -/

/-- The invariant holds of the reset state. -/
def Obligations.ResetStateMeetsTheInvariant : Prop := Inv State.reset

/-- Every step keeps the invariant, from every state that has it, whatever the outside agents do: legal parameters,
the queue invariants of 10_state.md R32 with the store in canonical form, every counter and `started` within its
width, and MSG the conversion of a frame of legal length once one is held (R22; 60_exceptions.md R221). -/
def Obligations.EveryStepKeepsTheInvariant : Prop :=
  ∀ s t : State, Inv s → step s = .next t → Inv t

/-- Every instruction that begins with the sequencer IDLE ends with it IDLE, whatever the invoked parties do
(10_state.md R33: "`IDLE` between operations"). -/
def Obligations.OperationsEndIdle : Prop :=
  ∀ (i : Instr) (s t : State), s.seq = .idle → exec i s = .next t → t.seq = .idle

/-- No step takes back a collaborator transaction or true time: the record only grows, the clock never goes back
(10_state.md R41; 45_wire_messages.md R204). -/
def Obligations.RecordAndTimeOnlyGrow : Prop :=
  ∀ s t : State, step s = .next t → (∃ es, t.trace = s.trace ++ es) ∧ s.env.time ≤ t.env.time

/-- No instruction changes a construction parameter: "None changes after construction" (00_scope.md R8), and none
takes or adds an input to come. -/
def Obligations.ParametersNeverChange : Prop :=
  ∀ (i : Instr) (s t : State), exec i s = .next t → t.par = s.par ∧ t.inbox = s.inbox

/-- "A handler, hook, callback, UI or transport transaction that never returns leaves the block for ever inside the
operation that invoked it" (60_exceptions.md R222): an operation whose first UI indication or transport transaction
never returns hangs, and one that returns is counted. That one does not return is all that such a transaction changes:
an operation that answers a next state or is refused does the same where every transaction to come returns (how many
return first is the model's own datum, log 9). -/
def Obligations.UnreturningTransactionOnlyHangs : Prop :=
  (∀ (s : State) (m : Message) (opc a b c : Byte) (v : Indication) (n : Byte) (i : Instr),
    s.env.stallsAfter = some 0 → m.len.toNat ≤ 8 → n ≠ 0x00#8 →
    (i = .send m ∨ i = .sendnn opc ∨ i = .sendRqnn ∨ i = .sendNnrel ∨ i = .sendWrack ∨ i = .sendCmderr opc ∨
      i = .sendGrsp a b c ∨ i = .minit ∨ i = .mreneg ∨ i = .mrevert ∨ i = .drain n ∨
      s.par.uiPresent = true ∧ (i = .indicate v ∨ i = .activity ∨ i = .msetslim ∨ i = .mconfirm)) →
    exec i s = .fault .neverReturns) ∧
  (∀ (s : State) (m : Message) (n : Nat), s.env.stallsAfter = some (n + 1) → m.len.toNat ≤ 8 →
    ∃ t, exec (.send m) s = .next t ∧ t.env.stallsAfter = some n) ∧
  (∀ (i : Instr) (s : State),
    (∀ t, exec i s = .next t → exec i (returning s) = .next (returning t)) ∧
    (∀ r, exec i s = .refused r → exec i (returning s) = .refused r))

/-- The high-water mark "is monotonic non-decreasing across the buffer's lifetime": no instruction but RESET, which
makes a new buffer, lowers it, whatever the invoked parties do (10_state.md R31). -/
def Obligations.HighWaterMarkNeverFalls : Prop :=
  ∀ (i : Instr) (s t : State), i ≠ .reset → exec i s = .next t → s.queue.hwm ≤ t.queue.hwm

/-- The queue is a leaf: sending, the mode machine's own operations, the polls and the checks leave it alone, and so
does a whole cycle of a block with no services and no callback (40_queue.md R122). -/
def Obligations.QueueIsALeaf : Prop :=
  ∀ (s t : State) (m : Message) (b : Byte) (v : Indication) (i : Instr), exec i s = .next t →
    (i = .send m ∨ i = .sendnn b ∨ i = .sendRqnn ∨ i = .sendNnrel ∨ i = .sendWrack ∨ i = .sendCmderr b ∨
      i = .minit ∨ i = .mreneg ∨ i = .mtimeout ∨ i = .mrevert ∨ i = .msetslim ∨ i = .museract b ∨ i = .indicate v ∨
      i = .pUi ∨ i = .activity ∨
      s.par.services = [] ∧ s.par.callbackPresent = false ∧ (i = .process b ∨ i = .drain b ∨ i = .mconfirm)) →
    t.queue = s.queue
end

