-- ==== Sys2Proof/Tests/Slice0.lean ====
section
/-!
SUPPORT. Tests of the model's author: the ill-formed terms that WellFormed refuses, a word of the encoding tables for
every constructor, one-step vectors of 95_test_vectors.md (each named in its comment), and for every obligation with
hypotheses a state and operands that meet them together.
-/
namespace Sys2Proof.Tests
open Sys2Proof Sys2Proof.Machine

/-! ### WellFormed: an ill-formed term for each check -/

/-- Eight payload bytes, the first three given. -/
def bytes3 (a b c : Byte) : Payload := ⟨a, b, c, 0#8, 0#8, 0#8, 0#8, 0#8⟩

theorem test_qput_length_nine_is_ill_formed : (Instr.qput ⟨9#4, bytes3 1 2 3⟩).wellFormed = false := by decide
theorem test_send_length_nine_is_ill_formed : (Instr.send ⟨9#4, bytes3 1 2 3⟩).wellFormed = false := by decide
theorem test_fext_length_nine_is_ill_formed : (Instr.fExt false 9#4 (bytes3 1 2 3) 0).wellFormed = false := by decide
theorem test_fstd_length_nine_is_ill_formed : (Instr.fStd false 9#4 (bytes3 1 2 3) 0).wellFormed = false := by decide
theorem test_fstd_length_zero_is_ill_formed : (Instr.fStd false 0#4 (bytes3 1 2 3) 0).wellFormed = false := by decide
theorem test_fillegal_length_eight_is_ill_formed :
    (Instr.fIllegal true false 8#4 (bytes3 1 2 3) 0).wellFormed = false := by decide
theorem test_act_none_of_a_listed_code_is_ill_formed : (Instr.actNone 1#8).wellFormed = false := by decide
theorem test_lengths_zero_and_eight_are_well_formed :
    (Instr.qput ⟨0#4, bytes3 1 2 3⟩).wellFormed = true ∧ (Instr.send ⟨8#4, bytes3 1 2 3⟩).wellFormed = true ∧
    (Instr.fExt true 0#4 (bytes3 1 2 3) 0).wellFormed = true ∧
    (Instr.fStd true 8#4 (bytes3 1 2 3) 0).wellFormed = true ∧
    (Instr.fIllegal false true 15#4 (bytes3 1 2 3) 0).wellFormed = true ∧ (Instr.actNone 4#8).wellFormed = true := by
  decide

/-! ### Decoding: one written word per constructor (30_encoding.md R81, R86, R87, R89, R92 to R94) -/

theorem test_decode_cycle_operations :
    decode ⟨.host, [0x00]⟩ = .ok .reset ∧ decode ⟨.host, [0x01, 0x03]⟩ = .ok (.process 3) ∧
    decode ⟨.internal, [0x02]⟩ = .ok .pUi ∧ decode ⟨.internal, [0x03, 0xFF]⟩ = .ok (.drain 255) ∧
    decode ⟨.internal, [0x04, 0x07]⟩ = .ok (.housekeep 7) ∧ decode ⟨.internal, [0x05]⟩ = .ok .fhCall ∧
    decode ⟨.internal, [0x06]⟩ = .ok .rawdisp ∧ decode ⟨.internal, [0x07]⟩ = .ok .activity ∧
    decode ⟨.internal, [0x08]⟩ = .ok .decdisp ∧ decode ⟨.internal, [0x09]⟩ = .ok .svcInit := by decide

theorem test_decode_queue_operations :
    decode ⟨.host, [0x10, 0x08, 1, 2, 3, 4, 5, 6, 7, 8]⟩ = .ok (.qput ⟨8, ⟨1, 2, 3, 4, 5, 6, 7, 8⟩⟩) ∧
    decode ⟨.host, [0x11]⟩ = .ok .qget ∧ decode ⟨.host, [0x12]⟩ = .ok .qpeek ∧
    decode ⟨.host, [0x13]⟩ = .ok .qavail ∧ decode ⟨.host, [0x14]⟩ = .ok .qclear ∧
    decode ⟨.host, [0x15]⟩ = .ok .qsize ∧ decode ⟨.host, [0x16]⟩ = .ok .qfull ∧
    decode ⟨.host, [0x17]⟩ = .ok .qputs ∧ decode ⟨.host, [0x18]⟩ = .ok .qgets ∧
    decode ⟨.host, [0x19]⟩ = .ok .qovf ∧ decode ⟨.host, [0x1A]⟩ = .ok .qhwm := by decide

theorem test_decode_mode_operations :
    decode ⟨.host, [0x20]⟩ = .ok .minit ∧ decode ⟨.host, [0x21]⟩ = .ok .mreneg ∧
    decode ⟨.host, [0x22]⟩ = .ok .mconfirm ∧ decode ⟨.internal, [0x23]⟩ = .ok .mtimeout ∧
    decode ⟨.host, [0x24]⟩ = .ok .mrevert ∧ decode ⟨.host, [0x25]⟩ = .ok .msetslim ∧
    decode ⟨.internal, [0x26, 0x01]⟩ = .ok (.museract 1) ∧
    decode ⟨.internal, [0x27, 0x00]⟩ = .ok (.indicate .slim) ∧
    decode ⟨.internal, [0x27, 0x02]⟩ = .ok (.indicate .modeChanging) ∧
    decode ⟨.internal, [0x30]⟩ = .ok .enumStart := by decide

theorem test_decode_send_operations :
    decode ⟨.host, [0x40, 0x03, 0x50, 0, 0, 0, 0, 0, 0, 0]⟩ = .ok (.send ⟨3, bytes3 0x50 0 0⟩) ∧
    decode ⟨.host, [0x41, 0x50]⟩ = .ok (.sendnn 0x50) ∧ decode ⟨.internal, [0x42]⟩ = .ok .sendRqnn ∧
    decode ⟨.internal, [0x43]⟩ = .ok .sendNnrel ∧ decode ⟨.host, [0x44]⟩ = .ok .sendWrack ∧
    decode ⟨.host, [0x45, 0x07]⟩ = .ok (.sendCmderr 7) ∧
    decode ⟨.host, [0x46, 0x73, 0x01, 0x00]⟩ = .ok (.sendGrsp 0x73 1 0) := by decide

/-- Vectors F2, F4, F1, F5, F8 and an F_ZERO vector with stale payload. -/
theorem test_decode_frames :
    decode ⟨.frame 5, [0x28, 1, 2, 3, 4, 5, 6, 7, 8]⟩ = .ok (.fExt false 8 ⟨1, 2, 3, 4, 5, 6, 7, 8⟩ 5) ∧
    decode ⟨.frame 0, [0x20, 9, 0, 0, 0, 0, 0, 0, 0]⟩ = .ok (.fExt false 0 (bytes3 9 0 0) 0) ∧
    decode ⟨.frame 0, [0x10, 9, 0, 0, 0, 0, 0, 0, 0]⟩ = .ok (.fZero true (bytes3 9 0 0) 0) ∧
    decode ⟨.frame 0, [0x03, 0x42, 0, 5, 0, 0, 0, 0, 0]⟩ = .ok (.fStd false 3 (bytes3 0x42 0 5) 0) ∧
    decode ⟨.frame 0, [0x11, 0x0D, 0, 0, 0, 0, 0, 0, 0]⟩ = .ok (.fStd true 1 (bytes3 0x0D 0 0) 0) ∧
    decode ⟨.frame 0, [0x29, 1, 2, 3, 0, 0, 0, 0, 0]⟩ = .ok (.fIllegal true false 9 (bytes3 1 2 3) 0) := by decide

theorem test_decode_wire_messages :
    decode ⟨.msg, [3, 0x50, 0x01, 0x02, 0, 0, 0, 0, 0]⟩ = .ok (.rqnn 0x0102 0 0 0 0 0) ∧
    decode ⟨.msg, [3, 0x51, 0xFF, 0xFE, 0, 0, 0, 0, 0]⟩ = .ok (.nnrel 0xFFFE 0 0 0 0 0) ∧
    decode ⟨.msg, [3, 0x59, 0x01, 0x02, 0, 0, 0, 0, 0]⟩ = .ok (.wrack 0x0102 0 0 0 0 0) ∧
    decode ⟨.msg, [4, 0x6F, 0x01, 0x02, 7, 0, 0, 0, 0]⟩ = .ok (.cmderr 0x0102 7 0 0 0 0) ∧
    decode ⟨.msg, [6, 0xAF, 0x01, 0x02, 0x73, 1, 0, 0, 0]⟩ = .ok (.grsp 0x0102 0x73 1 0 0 0) := by decide

theorem test_decode_small_enumerations :
    decode ⟨.act, [0]⟩ = .ok (.actNone 0) ∧ decode ⟨.act, [1]⟩ = .ok .actChangeMode ∧
    decode ⟨.act, [2]⟩ = .ok .actRenegotiate ∧ decode ⟨.act, [3]⟩ = .ok .actEnumeration ∧
    decode ⟨.act, [255]⟩ = .ok (.actNone 255) ∧ decode ⟨.ind, [0]⟩ = .ok .indSlim ∧
    decode ⟨.ind, [1]⟩ = .ok .indFlim ∧ decode ⟨.ind, [2]⟩ = .ok .indModechanging ∧
    decode ⟨.ans, [0]⟩ = .ok .ansNotClaimed ∧ decode ⟨.ans, [1]⟩ = .ok .ansClaimed := by decide

/-- Vectors E5 and Q18, and bytes that are no packet. -/
theorem test_decode_rejects_by_name :
    decode ⟨.host, [0x0A]⟩ = .error (.unknownCommand 0x0A) ∧
    decode ⟨.host, [0x10, 9, 0, 0, 0, 0, 0, 0, 0, 0]⟩ = .error (.illegalMessageLength 9) ∧
    decode ⟨.host, [0x40, 0x13, 0, 0, 0, 0, 0, 0, 0, 0]⟩ = .error (.illegalMessageLength 0x13) ∧
    decode ⟨.internal, [0x27, 3]⟩ = .error (.unknownIndication 3) ∧
    decode ⟨.frame 0, [0x40, 0, 0, 0, 0, 0, 0, 0, 0]⟩ = .error .reservedBits ∧
    decode ⟨.msg, [4, 0x50, 0, 0, 0, 0, 0, 0, 0]⟩ = .error .unknownMessage ∧
    decode ⟨.ans, [2]⟩ = .error (.unknownAnswer 2) ∧ decode ⟨.host, [0x01]⟩ = .error .truncated ∧
    decode ⟨.host, [0x11, 0]⟩ = .error .trailing := by decide

/-! ### One-step vectors -/

/-- A block with a UI, scripted agents and an idle transport. -/
def bench : State :=
  { State.reset with
    par := { Config.defaultParams with uiPresent := true }
    env := { Env.unknown with
      arrivals := [[], [], []], sends := [true, true], turns := [.answers 0, .answers 0], ticks := [0, 0, 0] } }

/-- A block with three services and no UI whose handlers and hooks will answer like this. -/
def trio (answers : List Bool) : State :=
  { State.reset with
    par := { Config.defaultParams with services := [⟨1, 0⟩, ⟨3, 0⟩, ⟨2, 0⟩] }
    env := { Env.unknown with behaviours := answersAtOnce answers, arrivals := [[], [], []] } }

/-- What a test looks at, when the operation answers a next state. -/
def seen {α : Type} (look : State → α) (r : Result) : Option α :=
  match r with
  | .next t => some (look t)
  | _ => none

/-- The Message `A = [1: 0A]`. -/
def msgA : Message := ⟨1, bytes3 0x0A 0 0⟩
def msgB : Message := ⟨1, bytes3 0x0B 0 0⟩

/-- A frame of class F_STD, `{0 0 5: 90 01 02 00 07}`. -/
def frameStd : Frame := ⟨false, false, 5, ⟨0x90, 1, 2, 0, 7, 0, 0, 0⟩, 0⟩

/-- An extended frame with the same payload. -/
def frameExt : Frame := { frameStd with ext := true }

/-- A queue of capacity 2 that holds A and B. -/
def fullQueue : Queue :=
  { store := [(0, msgA), (1, msgB)], head := 0, tail := 0, size := 2, full := true, puts := 2, gets := 0,
    overflows := 0, hwm := 2 }
def fullState : State := { State.reset with par := { Config.defaultParams with capacity := 2 }, queue := fullQueue }

/-- Vector Q3. -/
theorem test_qput_into_a_new_queue :
    seen (fun t => (t.queue.store, t.queue.tail, t.queue.size, t.queue.full, t.queue.puts, t.queue.hwm))
      (exec (.qput msgA) State.reset) = some ([(0, msgA)], 1, 1, false, 1, 1) := by decide

/-- The source's scenario: a put into a full queue of capacity 2. -/
theorem test_qput_rejects_the_newest :
    seen (fun t => (t.queue.store, t.queue.size, t.queue.overflows, t.queue.puts)) (exec (.qput msgA) fullState) =
      some ([(0, msgA), (1, msgB)], 2, 1, 2) := by decide

/-- Vector Q14: `puts` wraps. -/
theorem test_puts_wraps :
    seen (fun t => t.queue.puts)
      (exec (.qput msgA) { State.reset with queue := { Queue.fresh with puts := 0xFFFFFFFF } }) = some 0 := by decide

/-- The source's scenario: a get answers A. -/
theorem test_qget_takes_the_oldest :
    seen (fun t => (t.answer, t.queue.head, t.queue.size, t.queue.full, t.queue.gets)) (exec .qget fullState) =
      some (.message msgA, 1, 1, false, 1) := by decide

/-- Vector M1: MINIT in a virgin module, clock at 1000. -/
theorem test_minit_in_a_virgin_module :
    seen (fun t => (t.trace, t.changing, t.started)) (exec .minit { bench with env := { bench.env with ticks := [1000] } }) =
      some ([.uiIndicateMode 2, .transportSend [0x50, 0, 0] true, .clockNow 1000], true, 1000) := by decide

/-- Vectors M16 and M17: a rollover between `started` and the sample. -/
theorem test_timeout_across_a_rollover :
    seen (fun t => t.changing) (exec .mtimeout
      { bench with changing := true, started := 0xFFFFF000, env := { bench.env with ticks := [0x10000652F] } }) =
        some true ∧
    seen (fun t => (t.changing, t.trace)) (exec .mtimeout
      { bench with changing := true, started := 0xFFFFF000, env := { bench.env with ticks := [0x100006530] } }) =
        some (false, [.clockNow 0x6530, .uiIndicateMode 0]) := by decide

/-- Vector M9. -/
theorem test_mrevert_releases_the_node_number :
    seen (fun t => (t.trace, t.cfg)) (exec .mrevert { bench with cfg := ⟨0x0102, 5, 1⟩ }) =
      some ([.transportSend [0x51, 1, 2] true, .cfgSet (.nn 0), .cfgSet (.mode 0), .cfgSet (.canid 0),
        .uiIndicateMode 0], ⟨0, 0, 0⟩) := by decide

/-- Vectors X5, X6 and X7. -/
theorem test_wire_messages :
    seen (fun t => t.trace) (exec (.sendCmderr 7) { bench with cfg := ⟨0x0102, 5, 1⟩ }) =
      some [.transportSend [0x6F, 1, 2, 7] true] ∧
    seen (fun t => t.trace) (exec (.sendGrsp 0x73 1 0) { bench with cfg := ⟨0x0102, 5, 1⟩ }) =
      some [.transportSend [0xAF, 1, 2, 0x73, 1, 0] true] ∧
    seen (fun t => t.trace) (exec (.sendnn 0x50) { bench with cfg := ⟨0x8000, 5, 1⟩ }) =
      some [.transportSend [0x50, 0x80, 0] true] := by decide

/-- Vector SV6: the raw claim does not stop the decoded pass. -/
theorem test_passes_are_independent :
    seen (fun t => t.trace) (exec (.fStd false 5 frameStd.data 0) (trio [true, false, true])) =
      some [.svcRaw 0 frameStd, .handlerAnswer true, .svcMsg 0 0x90 ⟨5, frameStd.data⟩, .handlerAnswer false,
        .svcMsg 1 0x90 ⟨5, frameStd.data⟩, .handlerAnswer true] := by decide

/-- Vector Y1: exactly two of three frames are drained. -/
theorem test_process_drains_at_most_so_many :
    seen (fun t => (t.env.rx, t.frm, t.seq, t.trace.filter isRetrieval))
      (exec (.process 2) { bench with env := { bench.env with rx := [frameStd, frameExt, frameStd] } }) =
        some ([frameStd], frameExt, .idle, [.transportNext frameStd, .transportNext frameExt]) := by decide

/-- Vector M5, with the confirming request made by a handler (program P4, cycle 2). -/
theorem test_service_confirms :
    seen (fun t => (t.cfg, t.changing, t.trace))
      (execDecdisp { trio [] with
        changing := true, frameHeld := true, frm := frameStd, msg := frameMessage frameStd
        env := { Env.unknown with
          behaviours := [.setCfg (.nn 0x0102) (.request [0x22] (.done false) (.done true))] } }) =
      some (⟨0x0102, 0, 1⟩, false, [.svcMsg 0 0x90 (frameMessage frameStd), .cfgSet (.nn 0x0102), .cfgSet (.mode 1),
        .svcEnumerate 1, .handlerAnswer true]) := by decide

/-- Vectors E6 and Y9. -/
theorem test_requests_out_of_place_are_refused :
    step { bench with inbox := [.word ⟨.host, [0x23]⟩] } = .refused .internalCommand ∧
    exec (.housekeep 0) { trio [] with env := { Env.unknown with
      behaviours := [.request [0x01, 1] (.done false) (.done false)] } } = .refused .reentrantProcess :=
  ⟨rfl, rfl⟩

/-- Requests whose operands are ill formed: an `I`-only code is refused as that, another as malformed (log 28). -/
theorem test_ill_formed_requests :
    step { bench with inbox := [.word ⟨.host, [0x27, 3]⟩] } = .refused .internalCommand ∧
    step { bench with inbox := [.word ⟨.host, [0x01]⟩] } = .refused .malformedWord := ⟨rfl, rfl⟩

/-- A service gets the node number another one has set; and a UI indication that never returns. -/
theorem test_cfg_get_and_unreturning_indication :
    seen (fun t => t.answer) (andThen (runBehaviour (.setCfg (.nn 0x0102) (.getCfg .nn (.done true))) bench)
      fun r => .next r.2) = some (.cfgNn 0x0102) ∧
    exec .activity { bench with env := { bench.env with stallsAfter := some 0 } } = .fault .neverReturns :=
  ⟨by decide, rfl⟩

/-! ### Witnesses: states and operands that meet the hypotheses of the obligations -/

theorem witness_EncodedInstructionIsReadBack : (Instr.fIllegal true true 9 (bytes3 1 2 3) 4).wellFormed = true := by decide

theorem witness_DecodedInstructionHasThoseBytes : decode ⟨.act, [0x04]⟩ = .ok (.actNone 4) := by decide

/-- One header byte for each class at the ends of its range. -/
theorem witness_FramesFallIntoTheirClasses :
    (0x3F#8).toNat < 64 ∧ 8 < (0x3F#8).toNat % 16 ∧ (0x09#8).toNat < 64 ∧ 8 < (0x09#8).toNat % 16 ∧
    (0x20#8).toNat < 64 ∧ 32 ≤ (0x20#8).toNat ∧ (0x10#8).toNat % 16 = 0 ∧ ¬ 32 ≤ (0x10#8).toNat ∧
    (0x08#8).toNat % 16 ≠ 0 ∧ ¬ 8 < (0x08#8).toNat % 16 := by decide

theorem witness_IllegalCommandsAreRejected :
    (0x47#8).toNat ∉ [0x00, 0x01, 0x02, 0x03, 0x04, 0x05, 0x06, 0x07, 0x08, 0x09, 0x10, 0x11, 0x12, 0x13, 0x14, 0x15,
      0x16, 0x17, 0x18, 0x19, 0x1A, 0x20, 0x21, 0x22, 0x23, 0x24, 0x25, 0x26, 0x27, 0x30, 0x40, 0x41, 0x42, 0x43,
      0x44, 0x45, 0x46] ∧ 8 < (0x09#8).toNat := by decide

theorem witness_StepRunsTheDecodedInstruction :
    ({ bench with inbox := [.word ⟨.host, [0x01, 3]⟩] } : State).inbox = .word ⟨.host, [0x01, 3]⟩ :: [] ∧
    decode ⟨.host, [0x01, 3]⟩ = .ok (.process 3) ∧ bench.seq = .idle ∧ hostMay (.process 3) = true ∧
    bench.inbox = [] := by decide

/-- `bench` with this input to come. -/
def asked (i : Input) : State := { bench with inbox := [i] }

/-- While an operation is in progress; an internal operation; no operation, for each outcome of the third clause; and no
byte at all. -/
theorem witness_HostRequestsAreAdmittedOrRefused :
    let s := { asked (.word ⟨.host, [0x11]⟩) with seq := .p2Act }
    s.inbox = .word ⟨.host, [0x11]⟩ :: [] ∧ decodeRequest [0x11] = .ok .qget ∧ s.seq ≠ .idle ∧
    (asked (.word ⟨.host, [0x23]⟩)).inbox = .word ⟨.host, [0x23]⟩ :: [] ∧ decodeRequest [0x23] = .ok .mtimeout ∧
    (asked (.word ⟨.host, [0x23]⟩)).seq = .idle ∧
    (asked (.word ⟨.host, [0x0A]⟩)).inbox = .word ⟨.host, [0x0A]⟩ :: [] ∧
    decodeRequest [0x0A] = .error (.unknownCommand 0x0A) ∧ decodeRequest [0x27, 3] = .error (.unknownIndication 3) ∧
    decodeRequest [0x10, 9, 0, 0, 0, 0, 0, 0, 0, 0] = .error (.illegalMessageLength 9) ∧
    decodeRequest [0x01] = .error .truncated ∧
    (asked (.word ⟨.host, []⟩)).inbox = .word ⟨.host, []⟩ :: [] := by decide

/-- Both sides of each range. -/
theorem witness_OutsideSetsOfTheConfigurationStore :
    (asked (.cfgSet (.nn 0xFFFF))).inbox = .cfgSet (.nn 0xFFFF) :: [] ∧
    (asked (.cfgSet (.canid 127))).inbox = .cfgSet (.canid 127) :: [] ∧ (127#8).toNat ≤ 127 ∧
    (asked (.cfgSet (.canid 128))).inbox = .cfgSet (.canid 128) :: [] ∧ ¬ (128#8).toNat ≤ 127 ∧
    (asked (.cfgSet (.mode 1))).inbox = .cfgSet (.mode 1) :: [] ∧ (1#8).toNat ≤ 1 ∧
    (asked (.cfgSet (.mode 2))).inbox = .cfgSet (.mode 2) :: [] ∧ ¬ (2#8).toNat ≤ 1 := by decide

/-- `bench` with initializers to come that return at once, and this construction to come. -/
def rebuilt (p : Params) (canid mode : Byte) : State :=
  { bench with
    env := { bench.env with behaviours := answersAtOnce [true, false] }, inbox := [.powerOn p 0 canid mode] }

/-- Parameters at the bounds of every range, two services among them. -/
def boundary : Params :=
  { Config.defaultParams with
    capacity := 255, services := [⟨3, 0⟩, ⟨1, 0⟩], timeoutMs := 2 ^ 32 - 1, counterWidth := 1 }

/-- The bounds of each range that small data show, from inside and from outside: C, TIMEOUT_MS, CNTW, CANID and MODE. -/
theorem witness_ConstructionChecksItsParameters :
    (rebuilt boundary 127 1).inbox = .powerOn boundary 0 127 1 :: [] ∧
    1 ≤ boundary.capacity ∧ boundary.capacity ≤ 255 ∧ boundary.services.length ≤ 255 ∧
    boundary.whitelist.length ≤ 255 ∧ boundary.timeoutMs < 2 ^ boundary.clockWidth ∧ 1 ≤ boundary.counterWidth ∧
    (127#8).toNat ≤ 127 ∧ (1#8).toNat ≤ 1 ∧ [true, false].length = boundary.services.length ∧
    (rebuilt boundary 127 1).env.behaviours = answersAtOnce [true, false] ++ [] ∧
    { boundary with capacity := 0 }.capacity < 1 ∧ 255 < { boundary with capacity := 256 }.capacity ∧
    2 ^ boundary.clockWidth ≤ { boundary with timeoutMs := 2 ^ 32 }.timeoutMs ∧
    { boundary with counterWidth := 0 }.counterWidth < 1 ∧ 127 < (128#8).toNat ∧ 1 < (2#8).toNat := by decide

/-- The two list bounds from outside: 256 services, 256 whitelist entries. -/
theorem witness_ConstructionChecksItsLists :
    255 < ({ boundary with services := List.replicate 256 ⟨1, 0⟩ } : Params).services.length ∧
    255 < ({ boundary with whitelist := List.replicate 256 0x90 } : Params).whitelist.length := by
  simp only [List.length_replicate]; decide

theorem witness_ResetRebuildsTheBlock :
    legalConstruction (trio [true, false, true]).par 0#8 0#8 = true ∧
    [true, false, true].length = serviceCount (trio [true, false, true]) ∧
    (trio [true, false, true]).env.behaviours = answersAtOnce [true, false, true] ++ [] := by decide

/-- Room, no room, and lengths 8 and 9. -/
theorem witness_QputStoresOrRejectsTheNewest :
    (8#4).toNat ≤ 8 ∧ bench.queue.full = false ∧ fullState.queue.full = true ∧ 8 < (9#4).toNat := by decide

theorem witness_QgetTakesTheOldest :
    bench.queue.size = 0 ∧ 0 < fullState.queue.size ∧
    readSlot fullState.queue.head fullState.queue.store = some msgA := by decide

theorem witness_QpeekReadsTheOldest :
    bench.queue.size = 0 ∧ 0 < fullState.queue.size ∧
    readSlot fullState.queue.head fullState.queue.store = some msgA := by decide

theorem witness_QueueAccessorsAreReads : ∃ t, exec .qclear fullState = .next t := ⟨_, rfl⟩

/-- A full queue of capacity 2 has the invariant. -/
theorem witness_QueueIsFirstInFirstOut : QueueInv fullState.par fullState.queue := by
  constructor <;> decide

theorem witness_HighWaterMarkAfterPuts : 1 ≤ Config.defaultParams.capacity := by decide

theorem witness_NegotiationBegins : AllReturn bench ∧ (Instr.mreneg = .minit ∨ Instr.mreneg = .mreneg) := by decide

/-- Without and with a bus-address service. -/
theorem witness_ConfirmationEntersFlim :
    AllReturn bench ∧ AllReturn (trio [true]) ∧ findService bench.par.svcIdCan bench.par.services = none ∧
    findService (trio [true]).par.svcIdCan (trio [true]).par.services = some 1 ∧
    (trio [true]).env.behaviours = .done true :: [] := by decide

theorem witness_EnumerationIsHandedOff :
    findService bench.par.svcIdCan bench.par.services = none ∧
    findService (trio [true]).par.svcIdCan (trio [true]).par.services = some 1 ∧
    (trio [true]).env.behaviours = .done true :: [] := by decide

/-- Not in ModeChanging; in it one millisecond early; in it at the deadline. -/
theorem witness_TimeoutIsJudgedByTheClock :
    AllReturn { bench with changing := true } ∧ bench.changing = false ∧ ({ bench with changing := true } : State).changing = true ∧
    subModulo bench.par.clockWidth (29999 % 2 ^ bench.par.clockWidth) 0 < bench.par.timeoutMs ∧
    bench.par.timeoutMs ≤ subModulo bench.par.clockWidth (30000 % 2 ^ bench.par.clockWidth) 0 := by decide

theorem witness_TimerSurvivesRollover :
    let s : State := { bench with changing := true, started := 5, env := { bench.env with time := 2 ^ 32 + 7 } }
    AllReturn s ∧ s.changing = true ∧ 2 ^ 32 + 5 ≤ s.env.time ∧ s.started = (2 ^ 32 + 5) % 2 ^ s.par.clockWidth := by decide

theorem witness_RevertReleasesThenClears : AllReturn bench := by decide

theorem witness_SetSlimSendsNothing : AllReturn bench := by decide

theorem witness_IndicationsAreShown : AllReturn bench := by decide

theorem witness_LongMessagesCarryTheirOperands : AllReturn bench := by decide

theorem witness_UserActionSelectsTheTransition :
    AllReturn bench ∧
    bench.cfg.mode = 0#1 ∧ ({ bench with cfg := ⟨1, 1, 1⟩ } : State).cfg.mode = 1#1 ∧
    (0x00#8) ≠ 0x01#8 ∧ (0x00#8) ≠ 0x02#8 ∧ (0x03#8) ≠ 0x01#8 ∧ (0x03#8) ≠ 0x02#8 := by decide

/-- Each named transition answers a next state. -/
theorem witness_ModeStateGraph :
    (∃ t, exec .minit bench = .next t) ∧ (∃ t, exec .msetslim bench = .next t) ∧
    (∃ t, exec .mtimeout bench = .next t) ∧ (∃ t, exec .mtimeout { bench with changing := true } = .next t) ∧
    (∃ t, exec .mtimeout { bench with changing := true, started := 1 } = .next t) ∧
    (∃ t, exec .mconfirm bench = .next t) ∧ findService bench.par.svcIdCan bench.par.services = none :=
  ⟨⟨_, rfl⟩, ⟨_, rfl⟩, ⟨_, rfl⟩, ⟨_, rfl⟩, ⟨_, rfl⟩, ⟨_, rfl⟩, rfl⟩

theorem witness_SendHandsOverTheMessage :
    AllReturn bench ∧ (0#4).toNat ≤ 8 ∧ (8#4).toNat ≤ 8 ∧ 8 < (9#4).toNat := by decide

theorem witness_ShortMessagesCarryTheNodeNumber :
    AllReturn bench ∧
    Instr.sendnn 0x50 = .sendnn 0x50 ∧ (0x50#8) = bench.par.opcRqnn ∧ (0x51#8) = bench.par.opcNnrel ∧
    (0x59#8) = bench.par.opcWrack := by decide

theorem witness_WireMessageRowsAreSent :
    AllReturn bench ∧
    (0x0102#16) = (0x01#8) ++ (0x02#8) ∧
    Instr.cmderr 0x0102 7 0 0 0 0 = .cmderr 0x0102 7 0 0 0 0 ∧
    [0x6F#8, 0x01#8, 0x02#8, 7#8] = [bench.par.opcCmderr, 0x01#8, 0x02#8, 7#8] := by decide

theorem witness_HooksAndInitializersRunInOrder :
    [true, false, true].length = serviceCount (trio [true, false, true]) ∧
    (trio [true, false, true]).env.behaviours = answersAtOnce [true, false, true] ++ [] := by decide

/-- A frame is held and three handlers answer; and the operation answers a next state. -/
theorem witness_RawPassStopsAtTheFirstClaim :
    let s : State := { trio [false, true, true] with frameHeld := true, frm := frameStd }
    s.frameHeld = true ∧ [false, true, true].length = serviceCount s ∧
    s.env.behaviours = answersAtOnce [false, true, true] ++ [] ∧ ∃ t, exec .rawdisp s = .next t :=
  ⟨rfl, rfl, rfl, _, rfl⟩

/-- A standard frame, an extended one and an empty one; and the operation answers a next state. -/
theorem witness_DecodedPassStopsAtTheFirstClaim :
    let s : State := { trio [false, true, true] with frameHeld := true, frm := frameStd }
    s.frameHeld = true ∧ [false, true, true].length = serviceCount s ∧
    s.env.behaviours = answersAtOnce [false, true, true] ++ [] ∧ s.frm.ext = false ∧ s.frm.len.toNat ≠ 0 ∧
    (∃ t, exec .decdisp s = .next t) ∧ ({ s with frm := frameExt } : State).frm.ext = true ∧
    ({ s with frm := { frameStd with len := 0 } } : State).frm.len.toNat = 0 :=
  ⟨rfl, rfl, rfl, rfl, by decide, ⟨_, rfl⟩, rfl, rfl⟩

/-- No callback; a whitelist that passes the frame; one that does not. -/
theorem witness_CallbackIsFilteredByTheWhitelist :
    let p : Params := { Config.defaultParams with callbackPresent := true, whitelist := [0x90] }
    let s : State := { trio [true] with par := p, frameHeld := true, frm := frameStd, msg := frameMessage frameStd }
    bench.par.callbackPresent = false ∧ s.par.callbackPresent = true ∧ s.frameHeld = true ∧
    s.env.behaviours = .done true :: [] ∧ s.frm.ext = false ∧ s.frm.len.toNat > 0 ∧
    s.msg.data.d0 ∈ s.par.whitelist ∧ s.par.whitelist ≠ [] ∧
    ({ s with frm := frameExt } : State).frm.ext = true := by decide

/-- No frame is held, and whatever frame and Message stand in for FRM and MSG the raw pass and the callback answer. -/
theorem witness_UnwrittenFrameReadsAsAnyValue :
    let s : State := { trio [false, false, true] with par := { (trio []).par with callbackPresent := true } }
    s.frameHeld = false ∧
    ∀ f m, (∃ t, exec .rawdisp { s with frameHeld := true, frm := f, msg := m } = .next t) ∧
      (∃ t, exec .fhCall { s with frameHeld := true, frm := f, msg := m } = .next t) :=
  ⟨rfl, fun _ _ => ⟨⟨_, rfl⟩, ⟨_, rfl⟩⟩⟩

/-- A listed request, the confirmation, PROCESS, one outside the list, bytes that are none, and both sides of each range. -/
theorem witness_InvokedPartiesAreHeldToTheList :
    decodeRequest [0x11] = .ok .qget ∧ decodeRequest [0x22] = .ok .mconfirm ∧
    decodeRequest [0x01, 1] = .ok (.process 1) ∧ decodeRequest [0x00] = .ok .reset ∧
    decodeRequest [0xFF] = .error (.unknownCommand 0xFF) ∧ decodeRequest [0x27, 3] = .error (.unknownIndication 3) ∧
    127 < (128#8).toNat ∧ 1 < (2#8).toNat := by decide

/-- The rows answer; and a cycle that retrieves a standard frame and an extended one answers, and invokes a
decoded-message handler. -/
theorem witness_ExtendedAndEmptyFramesAreNeverDecoded :
    (∃ t, exec (.fExt false 5 frameStd.data 0) (trio [false, false, false]) = .next t) ∧
    (∃ t, exec (.fZero false frameStd.data 0) (trio [false, false, false]) = .next t) ∧
    seen (fun t => t.trace.filter isDecodedCall) (exec (.drain 2)
      { trio [true, true, true] with env := { (trio [true, true, true]).env with rx := [frameStd, frameExt] } }) =
        some [.svcMsg 0 0x90 (frameMessage frameStd)] :=
  ⟨⟨_, rfl⟩, ⟨_, rfl⟩, by decide⟩

/-- No UI, a UI that answers, a UI that hangs. -/
theorem witness_UiIsPolledOnce :
    (trio []).par.uiPresent = false ∧ bench.par.uiPresent = true ∧ bench.env.turns = .answers 0 :: [.answers 0] ∧
    ({ bench with env := { bench.env with turns := [.hangs] } } : State).env.turns = .hangs :: [] := by decide

/-- An empty transport, a frame of length 9, one of each class; and, with no services, three frames and a bound of two, and
a bound of none. -/
theorem witness_DrainDispatchesFrameByFrame :
    let t := trio [false, true, true]
    let s : State := { bench with env := { bench.env with rx := [frameStd, frameExt, frameStd] } }
    AllReturn t ∧ (1#8) ≠ 0x00#8 ∧ t.env.arrivals = [] :: [[], []] ∧ t.env.rx ++ [] = [] ∧
    8 < ({ frameStd with len := 9 } : Frame).len.toNat ∧ ¬ 8 < frameStd.len.toNat ∧ frameStd.ext = false ∧
    frameStd.len.toNat ≠ 0 ∧ frameExt.ext = true ∧
    AllReturn s ∧ s.par.services = [] ∧ s.par.callbackPresent = false ∧ (2#8).toNat ≤ s.env.arrivals.length ∧
    (∀ batch ∈ s.env.arrivals, batch = []) ∧ lawfulFrames s.env.rx = true ∧
    (s.env.rx.take (2#8).toNat).getLast? = some frameExt ∧ s.env.rx.take (0#8).toNat = [] := by decide

theorem witness_DrainIsBounded :
    ∃ t, exec (.drain 2) { bench with env := { bench.env with rx := [frameStd, frameExt, frameStd] } } = .next t :=
  ⟨_, rfl⟩

/-- A retrieved frame of length 9 and one of length 15. -/
theorem witness_IllegalFrameLengthIsRefused :
    let s : State := { bench with env := { bench.env with rx := [{ frameStd with len := 9 }] } }
    AllReturn s ∧ AllReturn bench ∧ s.env.rx = { frameStd with len := 9 } :: [] ∧ 8 < ({ frameStd with len := 9 } : Frame).len.toNat ∧
    8 < ({ frameStd with len := 15 } : Frame).len.toNat ∧ bench.env.rx = [] := by decide

theorem witness_ReentrantProcessIsRefused :
    ({ bench with seq := .p3House 0 } : State).seq ≠ .idle ∧
    ({ trio [] with env := { Env.unknown with
      behaviours := [.request [0x01, 1] (.done false) (.done false)] } } : State).env.behaviours =
        .request [0x01#8, 1] (.done false) (.done false) :: [] ∧ (trio []).par.services ≠ [] := by decide

theorem witness_CycleIsItsFiveSteps :
    AllReturn bench ∧
    bench.seq = .idle ∧ bench.par.services = [] ∧ bench.par.callbackPresent = false ∧ bench.par.uiPresent = true ∧
    bench.env.turns = .answers 0 :: [.answers 0] ∧ bench.env.rx = [] ∧ bench.env.arrivals = [] :: [[], []] := by decide

/-- Program P2's clock: 29999 ms after the start the check of the first cycle does not fire, one more ms later that of
the second does. -/
theorem witness_UnansweredNegotiationTimesOut :
    let s : State := { bench with env := { bench.env with turns := [.answers 1, .answers 0], ticks := [1000, 29999, 1] } }
    AllReturn s ∧
    s.seq = .idle ∧ s.par.services = [] ∧ s.par.callbackPresent = false ∧ s.par.uiPresent = true ∧
    s.cfg.mode = 0#1 ∧ s.env.turns = .answers 0x01#8 :: .answers 0 :: [] ∧ (0 : Byte) ≠ 0x01#8 ∧ (0 : Byte) ≠ 0x02#8 ∧
    s.env.sends = true :: [true] ∧ s.env.ticks = 1000 :: 29999 :: 1 :: [] ∧ s.env.rx = [] ∧
    s.env.arrivals = [] :: [] :: [[]] ∧ s.par.timeoutMs < 2 ^ s.par.clockWidth ∧ 29999 < s.par.timeoutMs := by decide

/-- Three services, a callback and a UI, with the scripts of eleven invocations of parties that keep their obligations, a
frame held and three in the transport. -/
def lawfulBench : State :=
  { bench with
    par := { (trio []).par with uiPresent := true, callbackPresent := true }
    frameHeld := true, frm := frameStd, msg := frameMessage frameStd
    env := { bench.env with
      behaviours := [.done true, .setCfg (.canid 127) (.request [0x11] (.done false) (.getCfg .canid (.done true))),
        .done false] ++ List.replicate 8 (.done false)
      rx := [frameStd, frameExt, frameStd] } }

theorem lawfulBench_inv : Inv lawfulBench :=
  ⟨by decide, QueueInv.fresh _ (by decide), by decide, fun _ => ⟨rfl, by decide⟩⟩

theorem lawfulBench_behaviours : ∀ b ∈ lawfulBench.env.behaviours, lawful b = true := by
  intro b hb
  simp only [lawfulBench, List.mem_append, List.mem_replicate, List.mem_cons, List.not_mem_nil, or_false] at hb
  rcases hb with (rfl | rfl | rfl) | ⟨-, rfl⟩ <;> rfl

theorem witness_LawfulCycleAlwaysEnds :
    Inv lawfulBench ∧ lawfulBench.seq = .idle ∧
    LawfulEnv (serviceCount lawfulBench + (1#8).toNat * (1 + 2 * serviceCount lawfulBench)) (1#8).toNat
      lawfulBench.env :=
  ⟨lawfulBench_inv, rfl, by decide, lawfulBench_behaviours, by decide, by decide, by decide, ⟨0, [.answers 0], rfl⟩, rfl⟩

/-- With a frame held and without. -/
theorem witness_LawfulInvocationsComplete :
    Inv lawfulBench ∧ LawfulEnv (1 + 2 * serviceCount lawfulBench) 0 lawfulBench.env ∧ (8#4).toNat ≤ 8 ∧
    serviceCount lawfulBench = 3 ∧ lawfulBench.par.callbackPresent = true ∧
    Inv { lawfulBench with frameHeld := false } :=
  ⟨lawfulBench_inv, ⟨by decide, lawfulBench_behaviours, by decide, by decide, by decide, ⟨0, [.answers 0], rfl⟩, rfl⟩,
    by decide, rfl, rfl, lawfulBench_inv.1, lawfulBench_inv.2, lawfulBench_inv.3, nofun⟩

/-- One frame of each legal class. -/
theorem witness_FrameRowsHoldTheFrame :
    AllReturn bench ∧ bench.par.services = [] ∧ bench.par.callbackPresent = false ∧ frameStd.len.toNat ≤ 8 ∧ frameExt.ext = true ∧
    frameStd.ext = false ∧ frameStd.len.toNat ≠ 0 ∧ ({ frameStd with len := 0 } : Frame).len.toNat = 0 := by decide

theorem witness_PassesAreIndependent :
    let raw := [true, false, false]
    let dec := [false, true, false]
    let s := trio [true, false, true]
    AllReturn s ∧ s.par.callbackPresent = false ∧ frameStd.ext = false ∧ frameStd.len.toNat ≠ 0 ∧ frameStd.len.toNat ≤ 8 ∧
    raw.length = serviceCount s ∧ dec.length = serviceCount s ∧
    s.env.behaviours = answersAtOnce (raw.take (invokedCount raw)) ++ answersAtOnce (dec.take (invokedCount dec)) ++ [] := by
  decide

theorem witness_ActionRowsAreAppliedAndPassedOn :
    AllReturn (trio [true, false, true]) ∧
    [true, false, true].length = serviceCount (trio [true, false, true]) ∧
    (trio [true, false, true]).env.behaviours = answersAtOnce [true, false, true] ++ [] ∧
    Instr.actNone 4 = .actNone 4 ∧ 3 < (4#8).toNat ∧ (0#8).toNat = 0 := by decide

theorem witness_AnswersMoveThePass :
    ({ trio [] with seq := .p4Drain 1 .raw 2 } : State).seq = .p4Drain 1 .raw 2 ∧
    ({ trio [] with seq := .p4Drain 1 .dec 1 } : State).seq = .p4Drain 1 .dec 1 ∧ (trio []).seq = .idle := by decide

/-- With a request to come the invariant holds and the step answers a next state. -/
theorem witness_EveryStepKeepsTheInvariant :
    Inv { lawfulBench with inbox := [.word ⟨.host, [0x01, 1]⟩] } ∧
    ∃ t, step { lawfulBench with inbox := [.word ⟨.host, [0x01, 1]⟩] } = .next t :=
  ⟨⟨lawfulBench_inv.1, lawfulBench_inv.2, lawfulBench_inv.3, lawfulBench_inv.4⟩, _, rfl⟩

theorem witness_OperationsEndIdle : bench.seq = .idle ∧ ∃ t, exec (.process 2) bench = .next t := ⟨rfl, _, rfl⟩

theorem witness_RecordAndTimeOnlyGrow :
    ∃ t, step { bench with inbox := [.word ⟨.host, [0x20]⟩] } = .next t := ⟨_, rfl⟩

theorem witness_ParametersNeverChange : ∃ t, exec .mrevert bench = .next t := ⟨_, rfl⟩

/-- The first transaction never returns; the second does not, and the operation answers a next state; and one is refused. -/
theorem witness_UnreturningTransactionOnlyHangs :
    let hung (n : Nat) : State := { bench with env := { bench.env with stallsAfter := some n } }
    (hung 0).env.stallsAfter = some 0 ∧ msgA.len.toNat ≤ 8 ∧ (1#8) ≠ 0x00#8 ∧ (hung 0).par.uiPresent = true ∧
    (hung 1).env.stallsAfter = some (0 + 1) ∧ (∃ t, exec (.sendnn 0x50) (hung 1) = .next t) ∧
    exec (.send ⟨9, bytes3 0 0 0⟩) (hung 0) = .refused .illegalMessageLength :=
  ⟨rfl, by decide, by decide, rfl, rfl, ⟨_, rfl⟩, rfl⟩

theorem witness_HighWaterMarkNeverFalls : Instr.qclear ≠ .reset ∧ ∃ t, exec .qclear fullState = .next t :=
  ⟨by decide, _, rfl⟩

theorem witness_QueueIsALeaf :
    (∃ t, exec (.process 3) bench = .next t) ∧ bench.par.services = [] ∧ bench.par.callbackPresent = false :=
  ⟨⟨_, rfl⟩, rfl, rfl⟩

end Sys2Proof.Tests
end

section
/-!
PROOF. The rules of the queue operations (40_queue.md R110 to R120): how the operations on the queue answer, what the
queue instructions do to the whole state, and how a QPUT word is decoded.
-/
namespace Sys2Proof.Machine

/-! ### The length of a Message and its operand byte (30_encoding.md R90, R97 (ii)) -/

theorem legalLen_iff (len : BitVec 4) : legalLen len = true ↔ len.toNat ≤ 8 := by
  simp [legalLen]

@[simp] theorem lenByte_toNat (len : BitVec 4) : (lenByte len).toNat = len.toNat :=
  BitVec.toNat_setWidth_of_le (by decide)

@[simp] theorem setWidth_lenByte (len : BitVec 4) : BitVec.setWidth 4 (lenByte len) = len :=
  BitVec.setWidth_setWidth_of_le len (by decide)

/-- The operand decoder reads back a legal Message from its `len` byte and its eight data bytes. -/
theorem decodeMessageOperand_lenByte (mk : Message → Instr) (m : Message) (rest : List Byte)
    (hlen : m.len.toNat ≤ 8) :
    decodeMessageOperand mk (lenByte m.len :: (m.data.bytes ++ rest)) = .ok (mk m, rest) := by
  simp [decodeMessageOperand, Payload.bytes, hlen]

/-- A request whose command leaves nothing over is that command. -/
theorem decodeRequest_of_decodeCommand {bytes : List Byte} {i : Instr} (h : decodeCommand bytes = .ok (i, [])) :
    decodeRequest bytes = .ok i := by
  simp only [decodeRequest, h]

theorem decode_encode_qput (m : Message) (hlen : m.len.toNat ≤ 8) : decode (encode (.qput m)) = .ok (.qput m) :=
  decodeRequest_of_decodeCommand (decodeMessageOperand_lenByte .qput m [] hlen)

/-! ### The operations on the queue -/

theorem queuePut_of_full (p : Params) (m : Message) {q : Queue} (hfull : q.full = true) :
    queuePut p m q = queueReject p q := by
  simp [queuePut, hfull]

theorem queuePut_of_not_full (p : Params) (m : Message) {q : Queue} (hfull : q.full = false) :
    queuePut p m q = queueAdd p m q := by
  simp [queuePut, hfull]

theorem readSlot_queueAdd (p : Params) (m : Message) (q : Queue) (j : Nat) :
    readSlot j (queueAdd p m q).store = if j = q.tail then some m else readSlot j q.store :=
  readSlot_writeSlot q.tail j m q.store

/-- A put into a queue that is not full sets `full` exactly when it fills the queue. -/
theorem queueAdd_full (p : Params) (m : Message) {q : Queue} (hfull : q.full = false) :
    (queueAdd p m q).full = decide (q.size + 1 = p.capacity) := by
  simp [queueAdd, fullAfterPut, hfull]

/-- The high-water mark is the largest size so far (10_state.md R31). -/
theorem queueAdd_hwm (p : Params) (m : Message) (q : Queue) : (queueAdd p m q).hwm = max q.hwm (q.size + 1) := by
  simp only [queueAdd]
  split <;> omega

/-- QGET and QPEEK read the entry at `head`, where that slot was written. -/
theorem queueFront_of_readSlot (life : Nat) {q : Queue} {m : Message} (h : readSlot q.head q.store = some m) :
    queueFront life q = m := by
  simp [queueFront, h]

theorem queueGet_of_empty (p : Params) (life : Nat) {q : Queue} (hs : q.size = 0) :
    queueGet p life q = (.absent, q) := by
  simp [queueGet, hs]

theorem queueGet_of_pos (p : Params) (life : Nat) {q : Queue} (hs : 0 < q.size) :
    queueGet p life q = (.message (queueFront life q), queueDrop p q) := by
  simp [queueGet, Nat.ne_of_gt hs]

theorem queuePeek_of_empty (life : Nat) {q : Queue} (hs : q.size = 0) : queuePeek life q = .absent := by
  simp [queuePeek, hs]

theorem queuePeek_of_pos (life : Nat) {q : Queue} (hs : 0 < q.size) :
    queuePeek life q = .message (queueFront life q) := by
  simp [queuePeek, Nat.ne_of_gt hs]

/-! ### The instructions on the state -/

theorem exec_qput_of_le {m : Message} (s : State) (hlen : m.len.toNat ≤ 8) :
    exec (.qput m) s = .next (answering .nothing { s with queue := queuePut s.par m s.queue }) :=
  if_pos ((legalLen_iff m.len).mpr hlen)

theorem exec_qput_of_gt {m : Message} (s : State) (hlen : 8 < m.len.toNat) :
    exec (.qput m) s = .refused .illegalMessageLength :=
  if_neg fun h => Nat.not_le_of_gt hlen ((legalLen_iff m.len).mp h)

theorem exec_qget (s : State) :
    exec .qget s = .next (answering (queueGet s.par s.lives s.queue).1
      { s with queue := (queueGet s.par s.lives s.queue).2 }) := rfl

theorem exec_qget_of_empty {s : State} (hs : s.queue.size = 0) : exec .qget s = .next (answering .absent s) := by
  rw [exec_qget, queueGet_of_empty s.par s.lives hs]

theorem exec_qget_of_pos {s : State} (hs : 0 < s.queue.size) :
    exec .qget s =
      .next (answering (.message (queueFront s.lives s.queue)) { s with queue := queueDrop s.par s.queue }) := by
  rw [exec_qget, queueGet_of_pos s.par s.lives hs]

theorem exec_qpeek (s : State) : exec .qpeek s = .next (answering (queuePeek s.lives s.queue) s) := rfl

theorem exec_qpeek_of_empty {s : State} (hs : s.queue.size = 0) : exec .qpeek s = .next (answering .absent s) := by
  rw [exec_qpeek, queuePeek_of_empty s.lives hs]

theorem exec_qpeek_of_pos {s : State} (hs : 0 < s.queue.size) :
    exec .qpeek s = .next (answering (.message (queueFront s.lives s.queue)) s) := by
  rw [exec_qpeek, queuePeek_of_pos s.lives hs]

theorem exec_qclear (s : State) :
    exec .qclear s = .next (answering .nothing { s with queue := queueClear s.queue }) := rfl

theorem exec_qavail (s : State) : exec .qavail s = .next (answering (.bit (decide (0 < s.queue.size))) s) := rfl

theorem exec_qsize (s : State) :
    exec .qsize s = .next (answering (.byte (BitVec.ofNat 8 s.queue.size)) s) := rfl

theorem exec_qfull (s : State) : exec .qfull s = .next (answering (.bit s.queue.full) s) := rfl

theorem exec_qputs (s : State) : exec .qputs s = .next (answering (.counter s.queue.puts) s) := rfl

theorem exec_qgets (s : State) : exec .qgets s = .next (answering (.counter s.queue.gets) s) := rfl

theorem exec_qovf (s : State) : exec .qovf s = .next (answering (.counter s.queue.overflows) s) := rfl

theorem exec_qhwm (s : State) :
    exec .qhwm s = .next (answering (.byte (BitVec.ofNat 8 s.queue.hwm)) s) := rfl

/-- QAVAIL answers 0 on an empty queue (40_queue.md R113). -/
theorem exec_qavail_of_empty {s : State} (hs : s.queue.size = 0) :
    exec .qavail s = .next (answering (.bit false) s) := by
  simp [exec_qavail, hs]

/-- QCLEAR leaves the queue empty. -/
theorem size_of_exec_qclear {s t : State} (h : exec .qclear s = .next t) : t.queue.size = 0 := by
  rw [exec_qclear] at h
  cases h
  rfl

/-! ### The obligations -/

/-- Settles O12: a legal length splits on the flag `full`, into the put that stores and the put that is rejected. -/
theorem qputStoresOrRejectsTheNewest : Obligations.QputStoresOrRejectsTheNewest := by
  intro m s
  refine ⟨fun hlen => ?decoded, fun hlen hfull => ?stored, fun hlen hfull => ?rejected, exec_qput_of_gt s⟩
  case decoded => exact ⟨lenByte m.len, lenByte_toNat m.len, decode_encode_qput m hlen⟩
  case stored =>
    rw [exec_qput_of_le s hlen, queuePut_of_not_full s.par m hfull]
    exact ⟨_, rfl, rfl, readSlot_queueAdd s.par m s.queue, rfl, rfl, rfl, queueAdd_full s.par m hfull, rfl, rfl, rfl,
      queueAdd_hwm s.par m s.queue⟩
  case rejected =>
    rw [exec_qput_of_le s hlen, queuePut_of_full s.par m hfull]
    rfl

/-- Settles O13: the entry answered is the one QGET reads at `head`, and `queueDrop` is the update of R111. -/
theorem qgetTakesTheOldest : Obligations.QgetTakesTheOldest := by
  refine ⟨rfl, fun s => ⟨exec_qget_of_empty, fun hs => ?_⟩⟩
  exact ⟨queueFront s.lives s.queue, fun n hn => queueFront_of_readSlot s.lives hn, exec_qget_of_pos hs⟩

/-- Settles O14: QPEEK and QGET answer the same `queueFront`, which does not depend on the answer a peek leaves. -/
theorem qpeekReadsTheOldest : Obligations.QpeekReadsTheOldest := by
  refine ⟨rfl, fun s => ⟨exec_qpeek_of_empty, fun hs => ?_⟩⟩
  have hpeeked : 0 < (answering (.message (queueFront s.lives s.queue)) s).queue.size := hs
  exact ⟨queueFront s.lives s.queue, fun n hn => queueFront_of_readSlot s.lives hn, exec_qpeek_of_pos hs,
    exec_qpeek_of_pos hpeeked, _, exec_qget_of_pos hpeeked, rfl⟩

/-- Settles O15: QCLEAR's meaning is the update of R114. -/
theorem qclearKeepsTheCounters : Obligations.QclearKeepsTheCounters :=
  ⟨rfl, exec_qclear⟩

/-- Settles O16: each accessor is a read by its meaning, and QAVAIL after QCLEAR finds the queue empty. -/
theorem queueAccessorsAreReads : Obligations.QueueAccessorsAreReads := by
  refine ⟨rfl, rfl, rfl, rfl, rfl, rfl, rfl, fun s => ⟨fun t ht => ?_, exec_qavail s, exec_qsize s, exec_qfull s,
    exec_qputs s, exec_qgets s, exec_qovf s, exec_qhwm s⟩⟩
  exact exec_qavail_of_empty (size_of_exec_qclear ht)

end Sys2Proof.Machine
end

section
/-!
PROOF. The transitions of the mode machine (42_mode_fsm.md R151, R152, R156 to R158): what one send and one clock sample
draw, each transition where all transactions return, and the transition a user action selects.
-/
namespace Sys2Proof.Machine

/-! ### What a transaction draws from its agent -/

theorem drawSend_of_cons {e : Env} {b : Bool} {rest : List Bool} (h : e.sends = b :: rest) :
    drawSend e = (b, { e with sends := rest }) := by
  simp [drawSend, h]

theorem drawTick_of_cons {e : Env} {d : Nat} {rest : List Nat} (h : e.ticks = d :: rest) :
    drawTick e = (d, { e with ticks := rest }) := by
  simp [drawTick, h]

theorem sendDrawn_drawSend (e : Env) : SendDrawn e (drawSend e).2 (drawSend e).1 where
  only := drawSend_env e
  scripted b rest h := by simp [drawSend_of_cons h]

theorem SendDrawn.stallsAfter_eq {e e' : Env} {ok : Bool} (h : SendDrawn e e' ok) :
    e'.stallsAfter = e.stallsAfter := by
  rw [h.only]

/-- One sample of the clock: a tick is drawn, and true time goes on by it. -/
theorem clockDrawn_drawTick (e : Env) : ClockDrawn e { (drawTick e).2 with time := e.time + (drawTick e).1 } where
  monotone := Nat.le_add_right _ _
  only := by rw [drawTick_env]
  scripted d rest h := by rw [drawTick_of_cons h]

/-! ### The transitions where all transactions return -/

theorem presented_shortMessage (opc : Byte) (nn : NodeNumber) :
    presented (shortMessage opc nn) = [opc, nnHigh nn, nnLow nn] := rfl

/-- SENDNN (45_wire_messages.md R196): three bytes with the node number now held, and the transport's answer drawn. -/
theorem sendOwn_of_allReturn (opc : Byte) {s : State} (h : AllReturn s) :
    ∃ ok e, SendDrawn s.env e ok ∧ sendOwn opc s = .next (ok, { s with
      env := e, trace := s.trace ++ [.transportSend [opc, nnHigh s.cfg.nn, nnLow s.cfg.nn] ok] }) := by
  refine ⟨_, _, sendDrawn_drawSend s.env, ?_⟩
  rw [sendOwn, transportSend_of_allReturn (shortMessage opc s.cfg.nn) h, presented_shortMessage]

theorem negotiate_of_allReturn {s : State} (h : AllReturn s) :
    ∃ ok e e', SendDrawn s.env e ok ∧ ClockDrawn e e' ∧ negotiate s = .next { s with
      env := e', started := e'.time % 2 ^ s.par.clockWidth, changing := true
      trace := s.trace ++ shownMode s 0x02#8 ++
        [.transportSend [s.par.opcRqnn, nnHigh s.cfg.nn, nnLow s.cfg.nn] ok,
          .clockNow (e'.time % 2 ^ s.par.clockWidth)] } := by
  have hshown := indicateMode_of_allReturn .modeChanging h
  obtain ⟨ok, e, hdrawn, hsent⟩ :=
    sendOwn_of_allReturn s.par.opcRqnn (s := { s with trace := s.trace ++ shownMode s 0x02#8 }) h
  refine ⟨ok, e, _, hdrawn, clockDrawn_drawTick e, ?_⟩
  simp [negotiate, hshown, hsent, clockNow, emit, Indication.code]

theorem setSlim_of_allReturn {s : State} (h : AllReturn s) :
    setSlim s = .next { s with
      cfg := { nn := 0#16, canid := 0#7, mode := 0#1 }, changing := false
      trace := s.trace ++ [.cfgSet (.nn 0x0000#16), .cfgSet (.mode 0x00#8), .cfgSet (.canid 0x00#8)] ++
        shownMode s 0x00#8 } := by
  unfold setSlim
  rw [indicateMode_of_allReturn .slim (by simpa using h)]
  simp [storeCfg, emit, shownMode, Indication.code]

theorem revert_of_allReturn {s : State} (h : AllReturn s) :
    ∃ ok e, SendDrawn s.env e ok ∧ revert s = .next { s with
      env := e, cfg := { nn := 0#16, canid := 0#7, mode := 0#1 }, changing := false
      trace := s.trace ++ [.transportSend [s.par.opcNnrel, nnHigh s.cfg.nn, nnLow s.cfg.nn] ok,
        .cfgSet (.nn 0x0000#16), .cfgSet (.mode 0x00#8), .cfgSet (.canid 0x00#8)] ++ shownMode s 0x00#8 } := by
  obtain ⟨ok, e, hdrawn, hsent⟩ := sendOwn_of_allReturn s.par.opcNnrel h
  have hreturn : e.stallsAfter = none := hdrawn.stallsAfter_eq.trans h
  refine ⟨ok, e, hdrawn, ?_⟩
  rw [revert, hsent, andThen_next, setSlim_of_allReturn hreturn]
  simp [shownMode]

/-! ### The action a user reports (42_mode_fsm.md R158) -/

theorem applyAction_changeMode (s : State) :
    applyAction 0x01#8 s = if s.cfg.mode = 0#1 then negotiate s else revert s := if_pos rfl

theorem applyAction_changeMode_of_slim {s : State} (h : s.cfg.mode = 0#1) : applyAction 0x01#8 s = negotiate s := by
  rw [applyAction_changeMode, if_pos h]

theorem applyAction_changeMode_of_flim {s : State} (h : s.cfg.mode = 1#1) : applyAction 0x01#8 s = revert s := by
  rw [applyAction_changeMode, if_neg (by simp [h])]

theorem applyAction_renegotiate (s : State) : applyAction 0x02#8 s = negotiate s := rfl

theorem applyAction_ignored {a : Byte} (s : State) (hchange : a ≠ 0x01#8) (hrenegotiate : a ≠ 0x02#8) :
    applyAction a s = .next s :=
  (if_neg hchange).trans (if_neg hrenegotiate)

/-- Whatever action is reported, applying it completes. -/
theorem applyAction_completes {s : State} (h : AllReturn s) (a : Byte) : ∃ t, applyAction a s = .next t := by
  obtain ⟨_, _, _, _, _, hnegotiate⟩ := negotiate_of_allReturn h
  obtain ⟨_, _, _, hrevert⟩ := revert_of_allReturn h
  by_cases hchange : a = 0x01#8
  · subst hchange
    rcases BitVec.eq_zero_or_eq_one s.cfg.mode with hslim | hflim
    · exact ⟨_, (applyAction_changeMode_of_slim hslim).trans hnegotiate⟩
    · exact ⟨_, (applyAction_changeMode_of_flim hflim).trans hrevert⟩
  by_cases hrenegotiate : a = 0x02#8
  · subst hrenegotiate
    exact ⟨_, (applyAction_renegotiate s).trans hnegotiate⟩
  exact ⟨_, applyAction_ignored s hchange hrenegotiate⟩

/-! ### The instructions on the state -/

theorem quietly_congr {op op' : State → Result} {s : State} (h : op s = op' s) : quietly op s = quietly op' s := by
  simp only [quietly, h]

theorem quietly_of_next {op : State → Result} {s t : State} (h : op s = .next t) :
    quietly op s = .next (answering .nothing t) :=
  quietly_eq_next.mpr ⟨t, h, rfl⟩

/-- MINIT and MRENEG have one meaning (42_mode_fsm.md R152). -/
theorem exec_negotiation {i : Instr} (s : State) (h : i = .minit ∨ i = .mreneg) : exec i s = quietly negotiate s := by
  rcases h with rfl | rfl <;> rfl

theorem exec_mrevert (s : State) : exec .mrevert s = quietly revert s := rfl

theorem exec_msetslim (s : State) : exec .msetslim s = quietly setSlim s := rfl

theorem exec_museract (a : Byte) (s : State) : exec (.museract a) s = quietly (applyAction a) s := rfl

/-! ### The obligations -/

/-- Settles O19: both instructions are `negotiate`, whose draws are one send's and then one clock sample's. -/
theorem negotiationBegins : Obligations.NegotiationBegins := by
  refine ⟨rfl, rfl, fun i s hreturn hi => ?_⟩
  obtain ⟨ok, e, e', hsend, hclock, hnegotiate⟩ := negotiate_of_allReturn hreturn
  exact ⟨ok, e, e', (exec_negotiation s hi).trans (quietly_of_next hnegotiate), hsend, hclock⟩

/-- Settles O24: the release is sent before `setSlim` clears the node number it carries. -/
theorem revertReleasesThenClears : Obligations.RevertReleasesThenClears := by
  refine ⟨rfl, fun s hreturn => ?_⟩
  obtain ⟨ok, e, hsend, hrevert⟩ := revert_of_allReturn hreturn
  exact ⟨ok, e, hsend, (exec_mrevert s).trans (quietly_of_next hrevert)⟩

/-- Settles O25: `setSlim` is the three sets, the flag and the indication. -/
theorem setSlimSendsNothing : Obligations.SetSlimSendsNothing :=
  ⟨rfl, fun s hreturn => (exec_msetslim s).trans (quietly_of_next (setSlim_of_allReturn hreturn))⟩

/-- Settles O26: MUSERACT does what `applyAction` does, and that is one of the transitions or nothing. -/
theorem userActionSelectsTheTransition : Obligations.UserActionSelectsTheTransition := by
  refine ⟨fun a => rfl, fun s => ⟨fun hslim => ?slim, fun hflim => ?flim, ?renegotiate,
    fun a hchange hrenegotiate => ?ignored, fun hreturn a => ?completes⟩⟩
  case slim => exact (exec_museract _ s).trans (quietly_congr (applyAction_changeMode_of_slim hslim))
  case flim => exact (exec_museract _ s).trans (quietly_congr (applyAction_changeMode_of_flim hflim))
  case renegotiate => exact (exec_museract _ s).trans (quietly_congr (applyAction_renegotiate s))
  case ignored => exact (exec_museract a s).trans (quietly_of_next (applyAction_ignored s hchange hrenegotiate))
  case completes =>
    obtain ⟨t, ht⟩ := applyAction_completes hreturn a
    exact ⟨answering .nothing t, (exec_museract a s).trans (quietly_of_next ht)⟩

end Sys2Proof.Machine
end

section
/-!
PROOF. Sending (45_wire_messages.md R195 to R199): SEND of a Message the requester gives, and the three-byte messages that
carry the module's own node number.
-/
namespace Sys2Proof.Machine

/-! ### The bytes on the wire -/

/-- High byte, then low byte (30_encoding.md R88). -/
theorem nnHigh_append_nnLow (nn : NodeNumber) : nnHigh nn ++ nnLow nn = nn :=
  (BitVec.extractLsb'_append_extractLsb'_eq_extractLsb' (by decide)).trans BitVec.extractLsb'_eq_self

theorem decode_encode_send (m : Message) (hlen : m.len.toNat ≤ 8) : decode (encode (.send m)) = .ok (.send m) :=
  decodeRequest_of_decodeCommand (decodeMessageOperand_lenByte .send m [] hlen)

/-! ### The answer the requester gets -/

theorem answeringSend_next (ok : Bool) (t : State) :
    answeringSend (.next (ok, t)) = .next (answering (.bit ok) t) := rfl

/-- One transaction: the Message's bytes presented and the transport's answer drawn and passed on. -/
theorem answeringSend_transportSend_of_allReturn (m : Message) {s : State} (h : AllReturn s) :
    ∃ ok e, SendDrawn s.env e ok ∧ answeringSend (transportSend m s) = .next { s with
      env := e, answer := .bit ok, trace := s.trace ++ [.transportSend (presented m) ok] } := by
  refine ⟨_, _, sendDrawn_drawSend s.env, ?_⟩
  rw [transportSend_of_allReturn m h, answeringSend_next]
  rfl

theorem answeringSend_sendOwn_of_allReturn (opc : Byte) {s : State} (h : AllReturn s) :
    ∃ ok e, SendDrawn s.env e ok ∧ answeringSend (sendOwn opc s) = .next { s with
      env := e, answer := .bit ok
      trace := s.trace ++ [.transportSend [opc, nnHigh s.cfg.nn, nnLow s.cfg.nn] ok] } :=
  answeringSend_transportSend_of_allReturn (shortMessage opc s.cfg.nn) h

/-! ### The instructions on the state -/

theorem exec_send_of_le {m : Message} (s : State) (hlen : m.len.toNat ≤ 8) :
    exec (.send m) s = answeringSend (transportSend m s) :=
  if_pos ((legalLen_iff m.len).mpr hlen)

theorem exec_send_of_gt {m : Message} (s : State) (hlen : 8 < m.len.toNat) :
    exec (.send m) s = .refused .illegalMessageLength :=
  if_neg fun h => Nat.not_le_of_gt hlen ((legalLen_iff m.len).mp h)

theorem exec_sendnn (opc : Byte) (s : State) : exec (.sendnn opc) s = answeringSend (sendOwn opc s) := rfl

theorem exec_sendRqnn (s : State) : exec .sendRqnn s = answeringSend (sendOwn s.par.opcRqnn s) := rfl

theorem exec_sendNnrel (s : State) : exec .sendNnrel s = answeringSend (sendOwn s.par.opcNnrel s) := rfl

theorem exec_sendWrack (s : State) : exec .sendWrack s = answeringSend (sendOwn s.par.opcWrack s) := rfl

/-- The three fixed messages are SENDNN with the opcode of a parameter (45_wire_messages.md R197 to R199). -/
theorem exec_shortMessage {i : Instr} {opc : Byte} {s : State}
    (h : i = .sendnn opc ∨ i = .sendRqnn ∧ opc = s.par.opcRqnn ∨ i = .sendNnrel ∧ opc = s.par.opcNnrel ∨
      i = .sendWrack ∧ opc = s.par.opcWrack) :
    exec i s = answeringSend (sendOwn opc s) := by
  obtain rfl | ⟨rfl, rfl⟩ | ⟨rfl, rfl⟩ | ⟨rfl, rfl⟩ := h
  · exact exec_sendnn opc s
  · exact exec_sendRqnn s
  · exact exec_sendNnrel s
  · exact exec_sendWrack s

/-! ### The obligations -/

/-- Settles O29: the length check splits SEND into the refusal and one transaction, whose answer is passed on. -/
theorem sendHandsOverTheMessage : Obligations.SendHandsOverTheMessage := by
  refine fun m s => ⟨fun hlen => ?decoded, fun hlen hreturn => ?sent, exec_send_of_gt s⟩
  case decoded => exact ⟨lenByte m.len, lenByte_toNat m.len, decode_encode_send m hlen⟩
  case sent =>
    rw [exec_send_of_le s hlen]
    exact answeringSend_transportSend_of_allReturn m hreturn

/-- Settles O30: all four are SENDNN, and its two bytes after the opcode put together are the node number. -/
theorem shortMessagesCarryTheNodeNumber : Obligations.ShortMessagesCarryTheNodeNumber := by
  refine ⟨fun opc => rfl, fun i opc s hreturn hi => ?_⟩
  obtain ⟨ok, e, hdrawn, hsent⟩ := answeringSend_sendOwn_of_allReturn opc hreturn
  exact ⟨ok, e, nnHigh s.cfg.nn, nnLow s.cfg.nn, hdrawn, (nnHigh_append_nnLow s.cfg.nn).symm,
    (exec_shortMessage hi).trans hsent⟩

end Sys2Proof.Machine
end

section
/-!
PROOF. The refusals of 60_exceptions.md at retrieval and by re-entry (R220, R221): what the transport answers where there
is no frame or one of no legal length, and PROCESS outside IDLE or requested by an invoked party.
-/
namespace Sys2Proof.Machine

/-! ### A draw and a stop -/

theorem drawBehaviour_of_cons {e : Env} {b : Behaviour} {more : List Behaviour} (h : e.behaviours = b :: more) :
    drawBehaviour e = (b, { e with behaviours := more }) := by
  simp [drawBehaviour, h]

theorem quietly_of_refused {op : State → Result} {s : State} {e : Refusal} (h : op s = .refused e) :
    quietly op s = .refused e := by
  rw [quietly, h, andThen_refused]

theorem keepingPhase_of_refused {op : State → Result} {s : State} {e : Refusal} (h : op s = .refused e) :
    keepingPhase op s = .refused e := by
  rw [keepingPhase, h, andThen_refused]

/-! ### Retrieving a frame (10_state.md R38) -/

theorem transportNext_of_nil {s : State} (h : AllReturn s) (hrx : s.env.rx = []) :
    transportNext s = .refused .nextWithoutAvailable := by
  simp [transportNext, reach_of_allReturn h, hrx]

theorem transportNext_of_illegal {s : State} {f : Frame} {rest : List Frame} (h : AllReturn s)
    (hrx : s.env.rx = f :: rest) (hlen : legalLen f.len = false) :
    transportNext s = .refused .illegalFrameLength := by
  simp [transportNext, reach_of_allReturn h, hrx, hlen]

theorem exec_fIllegal (ext rtr : Bool) (len : BitVec 4) (data : Payload) (hdr : Nat) (s : State) :
    exec (.fIllegal ext rtr len data hdr) s = .refused .illegalFrameLength := rfl

/-! ### PROCESS by an invoked party -/

theorem exec_process_of_not_idle {s : State} (n : Byte) (hseq : s.seq ≠ .idle) :
    exec (.process n) s = .refused .reentrantProcess :=
  if_neg hseq

/-- The bytes are PROCESS, which the admission turns away before it would run. -/
theorem serviceRequest_process (enumerate : State → Result) (n : Byte) (s : State) :
    serviceRequest enumerate [0x01#8, n] s = .refused .reentrantProcess := rfl

theorem runBehaviour_request_process (n : Byte) (nested rest : Behaviour) (s : State) :
    runBehaviour (.request [0x01#8, n] nested rest) s = .refused .reentrantProcess := by
  rw [runBehaviour, serviceRequest_process, andThen_refused]

/-! ### A hook that is refused -/

/-- An invocation ends in the refusal its behaviour ends in. -/
theorem invokeHook_of_refused {s : State} {b : Behaviour} {more : List Behaviour} {e : Refusal}
    (hdraw : s.env.behaviours = b :: more) (hrun : ∀ t, runBehaviour b t = .refused e) :
    invokeHook s = .refused e := by
  rw [invokeHook, invoke, drawBehaviour_of_cons hdraw, hrun, andThen_refused]

/-- With a service registered, the first hook is invoked, and its refusal ends the pass. -/
theorem housekeep_of_refused {s : State} {b : Behaviour} {more : List Behaviour} {e : Refusal} (a : Byte)
    (hservices : s.par.services ≠ []) (hdraw : s.env.behaviours = b :: more)
    (hrun : ∀ t, runBehaviour b t = .refused e) : housekeep a s = .refused e := by
  obtain ⟨k, hk⟩ := Nat.exists_eq_succ_of_ne_zero (mt List.length_eq_zero_iff.mp hservices)
  rw [housekeep, hk, housekeepFrom, invokeHook_of_refused (by simpa using hdraw) hrun, andThen_refused]

theorem exec_housekeep_of_refused {s : State} {b : Behaviour} {more : List Behaviour} {e : Refusal} (a : Byte)
    (hservices : s.par.services ≠ []) (hdraw : s.env.behaviours = b :: more)
    (hrun : ∀ t, runBehaviour b t = .refused e) : exec (.housekeep a) s = .refused e :=
  quietly_of_refused (keepingPhase_of_refused (housekeep_of_refused a hservices hdraw hrun))

/-! ### The obligations -/

/-- Settles O44: the admission of an invoked party's request refuses PROCESS, and the refusal passes out through the
behaviour, the invocation and the pass. -/
theorem reentrantProcessIsRefused : Obligations.ReentrantProcessIsRefused := by
  refine fun s n => ⟨exec_process_of_not_idle n, fun nested rest => ?invoked,
    fun nested rest more hdraw hservices a => ?hook⟩
  case invoked => exact runBehaviour_request_process n nested rest s
  case hook => exact exec_housekeep_of_refused a hservices hdraw (runBehaviour_request_process n nested rest)

/-- Settles O43: the length check of the retrieval, and the meaning of the row. -/
theorem illegalFrameLengthIsRefused : Obligations.IllegalFrameLengthIsRefused := by
  refine ⟨exec_fIllegal, fun s f rest hreturn hrx hlen => ?_, fun s => transportNext_of_nil⟩
  have hillegal : legalLen f.len = false :=
    Bool.eq_false_iff.mpr fun h => Nat.not_le_of_gt hlen ((legalLen_iff f.len).mp h)
  exact transportNext_of_illegal hreturn hrx hillegal

end Sys2Proof.Machine
end

section
/-!
PROOF. What the operations do to a state, said once for every relation: a relation between states that holds across each
single update (a transaction of an agent, an event of the record, a register written) holds across every operation made
of such updates, whatever the invoked parties do (`Kept`).
-/
namespace Sys2Proof.Machine

variable {R : State → State → Prop}

/-! ### The two passes as one -/

/-- The invocation of the `i`-th raw-frame handler, with FRM. -/
def rawCall (i : Nat) (s : State) : Event := .svcRaw i (readFrm s)

/-- The invocation of the `i`-th decoded-message handler, with MSG and its opcode. -/
def decodedCall (i : Nat) (s : State) : Event := .svcMsg i (opcodeOf (readMsg s)) (readMsg s)

/-- A pass over `n` services from index `i` on: each handler is invoked with what `call` shows it, until one claims. The
raw and the decoded pass are this one with different calls (41_service_pipeline.md R133, R134). -/
def passFrom (mcount : Nat) (sub : Sub) (call : Nat → State → Event) : Nat → Nat → State → Result
  | 0, _, s => .next s
  | n + 1, i, s =>
    andThen (invokeHandler (emit (call i s) (atPhase (.p4Drain mcount sub i) s))) fun r =>
    andThen (passAnswer r.1 (atPhase (.p4Drain mcount sub i) r.2)) fun t =>
      if r.1 then .next t else passFrom mcount sub call n (i + 1) t

theorem rawFrom_eq (c n i : Nat) (s : State) : rawFrom c n i s = passFrom c .raw rawCall n i s := by
  induction n generalizing i s with
  | zero => rfl
  | succ n ih => simp only [rawFrom, passFrom, ih, rawCall]

theorem decodedFrom_eq (c n i : Nat) (s : State) : decodedFrom c n i s = passFrom c .dec decodedCall n i s := by
  induction n generalizing i s with
  | zero => rfl
  | succ n ih => simp only [decodedFrom, passFrom, ih, decodedCall]

theorem rawPass_eq (s : State) : rawPass s = passFrom (drainedCount s) .raw rawCall (serviceCount s) 0 s :=
  rawFrom_eq _ _ _ s

/-- The decoded pass is made of a frame that has an opcode; with no service it is no pass at all. -/
theorem decodedPass_eq (s : State) :
    decodedPass s =
      if hasOpcode (readFrm s) then passFrom (drainedCount s) .dec decodedCall (serviceCount s) 0 s else .next s := by
  unfold decodedPass
  split
  · have hnone : serviceCount s = 0 := by simpa [serviceCount] using ‹s.par.services.isEmpty = true›
    simp [hnone, passFrom]
  · simp only [decodedFrom_eq, serviceCount]

/-! ### The updates -/

/-- What sends, indications and clock samples do to the outside agents: time goes on, the transport's buffer and the
scripts of frames, turns and behaviours stay, and no transaction begins to hang. -/
structure AgentsGoOn (e e' : Env) : Prop where
  rx_eq : e'.rx = e.rx
  arrivals_eq : e'.arrivals = e.arrivals
  turns_eq : e'.turns = e.turns
  behaviours_eq : e'.behaviours = e.behaviours
  time_le : e.time ≤ e'.time
  return_of_return : e.stallsAfter = none → e'.stallsAfter = none

/-- The transactions that sending, the mode machine and the hand-off record. -/
def modeEvent (e : Event) : Bool :=
  match e with
  | .transportSend _ _ | .uiIndicateMode _ | .uiIndicateActivity | .clockNow _ | .cfgSet _ | .svcEnumerate _ => true
  | .transportNext _ | .uiRun | .uiRequestedAction _ | .svcInit _ | .svcHousekeep _ _ | .svcRaw _ _ => false
  | .svcMsg _ _ _ | .callback _ | .handlerAnswer _ => false

/-- The relation holds across each update that sending and the mode machine make. -/
structure KeptByModes (R : State → State → Prop) : Prop where
  refl : ∀ s, R s s
  trans : ∀ s t u, R s t → R t u → R s u
  agents : ∀ s e, AgentsGoOn s.env e → R s { s with env := e }
  record : ∀ e s, modeEvent e = true → R s (emit e s)
  answer : ∀ a s, R s (answering a s)
  config : ∀ c s, R s { s with cfg := c }
  flag : ∀ b s, R s { s with changing := b }
  timer : ∀ n s, n < 2 ^ s.par.clockWidth → R s { s with started := n }

/-- The relation holds across each update that an invoked party can cause. -/
structure KeptByParties (R : State → State → Prop) : Prop extends KeptByModes R where
  put : ∀ m s, R s { s with queue := queuePut s.par m s.queue }
  get : ∀ s, R s { s with queue := (queueGet s.par s.lives s.queue).2 }
  clear : ∀ s, R s { s with queue := queueClear s.queue }

/-- The relation holds across each update that the passes make, but the record of the calls themselves. -/
structure KeptByPasses (R : State → State → Prop) : Prop extends KeptByParties R where
  drawn : ∀ s, R s { s with env := (drawBehaviour s.env).2 }
  answered : ∀ c s, R s (emit (.handlerAnswer c) s)
  phase : ∀ p s, R s (atPhase p s)

/-- The relation holds across each update of every operation but RESET. -/
structure KeptByOperations (R : State → State → Prop) : Prop extends KeptByPasses R where
  event : ∀ e s, R s (emit e s)
  hold : ∀ f s, legalLen f.len = true → R s (holdFrame f s)
  latch : ∀ a s, R s { s with act := a }
  turn : ∀ s, R s { s with env := (drawTurn s.env).2 }
  arrive : ∀ s, R s { s with env := { (drawArrivals s.env).2 with rx := s.env.rx ++ (drawArrivals s.env).1 } }
  retrieve : ∀ f rest s, s.env.rx = f :: rest → R s { s with env := { s.env with rx := rest } }

/-! ### Sending and the mode machine -/

theorem AgentsGoOn.refl (e : Env) : AgentsGoOn e e := ⟨rfl, rfl, rfl, rfl, Nat.le_refl _, id⟩

theorem AgentsGoOn.trans {e f g : Env} (h : AgentsGoOn e f) (h' : AgentsGoOn f g) : AgentsGoOn e g where
  rx_eq := h'.rx_eq.trans h.rx_eq
  arrivals_eq := h'.arrivals_eq.trans h.arrivals_eq
  turns_eq := h'.turns_eq.trans h.turns_eq
  behaviours_eq := h'.behaviours_eq.trans h.behaviours_eq
  time_le := h.time_le.trans h'.time_le
  return_of_return := h'.return_of_return ∘ h.return_of_return

theorem agentsGoOn_reach {s t : State} (h : reach s = .next t) : AgentsGoOn s.env t.env := by
  unfold reach at h
  split at h
  · cases h; exact .refl _
  · cases h
  · rename_i n hn
    cases h
    exact { AgentsGoOn.refl s.env with return_of_return := fun hnone => by simp [hn] at hnone }

theorem agentsGoOn_drawSend (e : Env) : AgentsGoOn e (drawSend e).2 := by
  rw [drawSend_env]
  exact { AgentsGoOn.refl e with }

theorem agentsGoOn_clockNow (s : State) : AgentsGoOn s.env (clockNow s).2.env := by
  have htime := clockNow_time s
  simp only [clockNow, emit_env] at htime ⊢
  rw [drawTick_env]
  exact { AgentsGoOn.refl s.env with time_le := htime }

namespace KeptByModes

theorem reach (h : KeptByModes R) {s t : State} (ht : reach s = .next t) : R s t := by
  have heq : t = { s with env := t.env } := by rw [reach_eq_next ht]
  rw [heq]
  exact h.agents s _ (agentsGoOn_reach ht)

theorem transportSend (h : KeptByModes R) {m : Message} {s : State} {r : Bool × State}
    (hr : transportSend m s = .next r) : R s r.2 := by
  obtain ⟨t, ht, hr⟩ := andThen_eq_next.mp hr
  cases hr
  exact h.trans _ _ _ (h.reach ht) (h.trans _ _ _ (h.agents t _ (agentsGoOn_drawSend t.env)) (h.record _ _ rfl))

theorem indicateMode (h : KeptByModes R) {v : Indication} {s t : State} (ht : indicateMode v s = .next t) : R s t := by
  unfold Machine.indicateMode at ht
  split at ht
  · obtain ⟨u, hu, ht⟩ := andThen_eq_next.mp ht
    cases ht
    exact h.trans _ _ _ (h.reach hu) (h.record _ _ rfl)
  · cases ht
    exact h.refl s

theorem indicateActivity (h : KeptByModes R) {s t : State} (ht : indicateActivity s = .next t) : R s t := by
  unfold Machine.indicateActivity at ht
  split at ht
  · obtain ⟨u, hu, ht⟩ := andThen_eq_next.mp ht
    cases ht
    exact h.trans _ _ _ (h.reach hu) (h.record _ _ rfl)
  · cases ht
    exact h.refl s

theorem clockNow (h : KeptByModes R) (s : State) : R s (clockNow s).2 :=
  h.trans _ _ _ (h.agents s _ (agentsGoOn_clockNow s)) (h.record (.clockNow (Machine.clockNow s).1) _ rfl)

theorem storeCfg (h : KeptByModes R) (w : CfgWrite) (s : State) : R s (storeCfg w s) := by
  cases w with
  | nn v => exact h.trans _ _ _ (h.config _ s) (h.record _ _ rfl)
  | canid v => exact h.trans _ _ _ (h.config _ s) (h.record _ _ rfl)
  | mode v => exact h.trans _ _ _ (h.config _ s) (h.record _ _ rfl)

theorem quietly (h : KeptByModes R) {op : State → Result} {s t : State} (hop : ∀ u, op s = .next u → R s u)
    (ht : quietly op s = .next t) : R s t := by
  obtain ⟨u, hu, rfl⟩ := quietly_eq_next.mp ht
  exact h.trans _ _ _ (hop u hu) (h.answer _ _)

theorem negotiate (h : KeptByModes R) {s t : State} (ht : negotiate s = .next t) : R s t := by
  obtain ⟨u, hu, ht⟩ := andThen_eq_next.mp ht
  obtain ⟨r, hr, ht⟩ := andThen_eq_next.mp ht
  cases ht
  have hsent := h.trans _ _ _ (h.indicateMode hu) (h.transportSend hr)
  have hsampled := h.trans _ _ _ hsent (h.clockNow r.2)
  have hstarted := h.timer (Machine.clockNow r.2).1 (Machine.clockNow r.2).2 (Nat.mod_lt _ (Nat.two_pow_pos _))
  exact h.trans _ _ _ hsampled (h.trans _ _ _ hstarted (h.flag true _))

theorem setSlim (h : KeptByModes R) {s t : State} (ht : setSlim s = .next t) : R s t := by
  have hstored := h.trans _ _ _ (h.storeCfg (.nn 0x0000#16) s)
    (h.trans _ _ _ (h.storeCfg (.mode 0x00#8) _) (h.storeCfg (.canid 0x00#8) _))
  exact h.trans _ _ _ hstored (h.trans _ _ _ (h.flag false _) (h.indicateMode ht))

theorem revert (h : KeptByModes R) {s t : State} (ht : revert s = .next t) : R s t := by
  obtain ⟨r, hr, ht⟩ := andThen_eq_next.mp ht
  exact h.trans _ _ _ (h.transportSend hr) (h.setSlim ht)

theorem timeoutCheck (h : KeptByModes R) {s t : State} (ht : timeoutCheck s = .next t) : R s t := by
  unfold Machine.timeoutCheck at ht
  split at ht
  · dsimp only at ht
    split at ht
    · obtain ⟨u, hu, ht⟩ := andThen_eq_next.mp ht
      cases ht
      exact h.trans _ _ _ (h.clockNow s) (h.trans _ _ _ (h.indicateMode hu) (h.flag false u))
    · cases ht
      exact h.clockNow s
  · cases ht
    exact h.refl s

theorem applyAction (h : KeptByModes R) {a : Byte} {s t : State} (ht : applyAction a s = .next t) : R s t := by
  unfold Machine.applyAction at ht
  split at ht
  · split at ht
    · exact h.negotiate ht
    · exact h.revert ht
  · split at ht
    · exact h.negotiate ht
    · cases ht
      exact h.refl s

theorem answeringSend (h : KeptByModes R) {m : Message} {s t : State}
    (ht : answeringSend (Machine.transportSend m s) = .next t) : R s t := by
  obtain ⟨r, hr, ht⟩ := andThen_eq_next.mp ht
  cases ht
  exact h.trans _ _ _ (h.transportSend hr) (h.answer _ _)

theorem execSend (h : KeptByModes R) {m : Message} {s t : State} (ht : execSend m s = .next t) : R s t := by
  unfold Machine.execSend at ht
  split at ht
  · exact h.answeringSend ht
  · cases ht

theorem handOff (h : KeptByModes R) {enumerate : State → Result} (hen : ∀ a b, enumerate a = .next b → R a b)
    {s t : State} (ht : handOff enumerate s = .next t) : R s t := by
  unfold Machine.handOff at ht
  split at ht
  · exact h.trans _ _ _ (h.record _ _ rfl) (hen _ _ ht)
  · cases ht
    exact h.refl s

theorem confirm (h : KeptByModes R) {enumerate : State → Result} (hen : ∀ a b, enumerate a = .next b → R a b)
    {s t : State} (ht : confirm enumerate s = .next t) : R s t := by
  obtain ⟨u, hu, ht⟩ := andThen_eq_next.mp ht
  have hstored := h.trans _ _ _ (h.flag false s) (h.storeCfg (.mode 0x01#8) _)
  exact h.trans _ _ _ hstored (h.trans _ _ _ (h.indicateMode hu) (h.handOff hen ht))

end KeptByModes

/-! ### Invoked parties -/

namespace KeptByParties

theorem execQput (h : KeptByParties R) {m : Message} {s t : State} (ht : execQput m s = .next t) : R s t := by
  unfold Machine.execQput at ht
  split at ht
  · cases ht
    exact h.trans _ _ _ (h.put m s) (h.answer _ _)
  · cases ht

theorem execQget (h : KeptByParties R) {s t : State} (ht : execQget s = .next t) : R s t := by
  cases ht
  exact h.trans _ _ _ (h.get s) (h.answer _ _)

theorem execQclear (h : KeptByParties R) {s t : State} (ht : execQclear s = .next t) : R s t := by
  cases ht
  exact h.trans _ _ _ (h.clear s) (h.answer _ _)

/-- An answer given without any other change. -/
theorem answers (h : KeptByParties R) {a : Answer} {s t : State}
    (ht : (.next (answering a s) : Result) = .next t) : R s t := by
  cases ht
  exact h.answer a s

theorem serviceOperation (h : KeptByParties R) {enumerate : State → Result} {i : Instr} {s t : State}
    (hen : ∀ a b, enumerate a = .next b → R a b) (ht : serviceOperation enumerate i s = .next t) : R s t := by
  cases i with
  | qput m => exact h.execQput ht
  | qget => exact h.execQget ht
  | qclear => exact h.execQclear ht
  | qpeek | qavail | qsize | qfull | qputs | qgets | qovf | qhwm => exact h.answers ht
  | minit | mreneg => exact h.quietly (fun _ => h.negotiate) ht
  | mconfirm => exact h.quietly (fun _ => h.confirm hen) ht
  | mrevert => exact h.quietly (fun _ => h.revert) ht
  | msetslim => exact h.quietly (fun _ => h.setSlim) ht
  | send m => exact h.execSend ht
  | sendnn | sendWrack | sendCmderr | sendGrsp => exact h.answeringSend ht
  | _ => cases ht

/-- What an invoked party can do keeps the relation. -/
theorem kept (h : KeptByParties R) : Kept R where
  refl := h.refl
  trans := h.trans
  operation _ _ _ _ := h.serviceOperation
  setCfg := h.storeCfg
  getCfg _ s := h.answer _ s

theorem invokeHook (h : KeptByParties R) (hd : ∀ s, R s { s with env := (drawBehaviour s.env).2 }) {s t : State}
    (ht : invokeHook s = .next t) : R s t :=
  h.kept.invokeHook hd ht

theorem initFrom (h : KeptByParties R) (hd : ∀ s, R s { s with env := (drawBehaviour s.env).2 })
    (hcall : ∀ i s, R s (emit (.svcInit i) s)) {n i : Nat} {s t : State} (ht : initFrom n i s = .next t) : R s t := by
  induction n generalizing i s with
  | zero => cases ht; exact h.refl _
  | succ n ih =>
    obtain ⟨u, hu, ht⟩ := andThen_eq_next.mp ht
    exact h.trans _ _ _ (hcall i s) (h.trans _ _ _ (h.invokeHook hd hu) (ih ht))

end KeptByParties

/-! ### The passes -/

namespace KeptByPasses

theorem invokeHook (h : KeptByPasses R) {s t : State} (ht : invokeHook s = .next t) : R s t :=
  h.kept.invokeHook h.drawn ht

theorem invokeHandler (h : KeptByPasses R) {s : State} {r : Bool × State} (hr : invokeHandler s = .next r) : R s r.2 :=
  h.kept.invokeHandler h.drawn h.answered hr

theorem keepingPhase (h : KeptByPasses R) {op : State → Result} {s t : State} (hop : ∀ u, op s = .next u → R s u)
    (ht : keepingPhase op s = .next t) : R s t := by
  obtain ⟨u, hu, rfl⟩ := keepingPhase_eq_next.mp ht
  exact h.trans _ _ _ (hop u hu) (h.phase _ _)

theorem passAnswer (h : KeptByPasses R) {c : Bool} {s t : State} (ht : passAnswer c s = .next t) : R s t := by
  obtain ⟨p, -, rfl⟩ := passAnswer_eq_next ht
  exact h.phase p s

/-- One handler of a pass: it is invoked, and its answer moves the sequencer. -/
theorem handled (h : KeptByPasses R) {p : Seq} {s t : State} {r : Bool × State} (hr : Machine.invokeHandler s = .next r)
    (ht : Machine.passAnswer r.1 (atPhase p r.2) = .next t) : R s t :=
  h.trans _ _ _ (h.invokeHandler hr) (h.trans _ _ _ (h.phase p _) (h.passAnswer ht))

theorem housekeepFrom (h : KeptByPasses R) {a : Byte} (hcall : ∀ i s, R s (emit (.svcHousekeep i a) s)) {n i : Nat}
    {s t : State} (ht : housekeepFrom a n i s = .next t) : R s t := by
  induction n generalizing i s with
  | zero => cases ht; exact h.refl _
  | succ n ih =>
    obtain ⟨u, hu, ht⟩ := andThen_eq_next.mp ht
    have hcalled := h.trans _ _ _ (h.phase (.p3House i) s) (hcall i _)
    exact h.trans _ _ _ hcalled (h.trans _ _ _ (h.invokeHook hu) (ih ht))

theorem passFrom (h : KeptByPasses R) {sub : Sub} {call : Nat → State → Event}
    (hcall : ∀ i p s, R s (emit (call i s) (atPhase p s))) {c n i : Nat} {s t : State}
    (ht : passFrom c sub call n i s = .next t) : R s t := by
  induction n generalizing i s with
  | zero => cases ht; exact h.refl _
  | succ n ih =>
    obtain ⟨r, hr, ht⟩ := andThen_eq_next.mp ht
    obtain ⟨u, hu, ht⟩ := andThen_eq_next.mp ht
    have hhandled := h.trans _ _ _ (hcall i (.p4Drain c sub i) s) (h.handled hr hu)
    split at ht
    · cases ht; exact hhandled
    · exact h.trans _ _ _ hhandled (ih ht)

theorem rawPass (h : KeptByPasses R) (hcall : ∀ i p s, R s (emit (rawCall i s) (atPhase p s))) {s t : State}
    (ht : rawPass s = .next t) : R s t := by
  rw [rawPass_eq] at ht
  exact h.passFrom hcall ht

theorem callbackStep (h : KeptByPasses R) (hcall : ∀ p s, R s (emit (.callback (readMsg s)) (atPhase p s)))
    {s t : State} (ht : callbackStep s = .next t) : R s t := by
  unfold Machine.callbackStep at ht
  split at ht
  · exact h.trans _ _ _ (hcall _ s) (h.invokeHook ht)
  · cases ht; exact h.refl s

theorem decodedPass (h : KeptByPasses R) (hcall : ∀ i p s, R s (emit (decodedCall i s) (atPhase p s))) {s t : State}
    (ht : decodedPass s = .next t) : R s t := by
  rw [decodedPass_eq] at ht
  split at ht
  · exact h.passFrom hcall ht
  · cases ht; exact h.refl s

theorem classTest (h : KeptByPasses R) (hcall : ∀ i p s, R s (emit (decodedCall i s) (atPhase p s))) {c : Nat} {f : Frame}
    {s t : State} (ht : classTest c f s = .next t) : R s t := by
  unfold Machine.classTest at ht
  split at ht
  · cases ht; exact h.refl s
  · split at ht
    · exact h.trans _ _ _ (h.phase _ s) (h.decodedPass hcall ht)
    · cases ht; exact h.refl s

theorem actOn (h : KeptByPasses R) (hcall : ∀ i a s, R s (emit (.svcHousekeep i a) s)) {s t : State}
    (ht : actOn s = .next t) : R s t := by
  obtain ⟨u, hu, ht⟩ := andThen_eq_next.mp ht
  have happlied := h.trans _ _ _ (h.phase .p2Act s) (h.applyAction hu)
  exact h.trans _ _ _ happlied (h.trans _ _ _ (h.phase (.p3House 0) u) (h.housekeepFrom (fun i => hcall i _) ht))

end KeptByPasses

/-! ### The cycle and every operation -/

namespace KeptByOperations

/-- A call on the way through a pass. -/
theorem called (h : KeptByOperations R) (p : Seq) (s : State) (e : Event) : R s (emit e (atPhase p s)) :=
  h.trans _ _ _ (h.phase p s) (h.event e _)

theorem dispatchFrame (h : KeptByOperations R) {c : Nat} {f : Frame} (hlen : legalLen f.len = true) {s t : State}
    (ht : dispatchFrame c f s = .next t) : R s t := by
  obtain ⟨u, hu, ht⟩ := andThen_eq_next.mp ht
  obtain ⟨v, hv, ht⟩ := andThen_eq_next.mp ht
  obtain ⟨w, hw, ht⟩ := andThen_eq_next.mp ht
  have hheld := h.trans _ _ _ (h.hold f s hlen) (h.phase (.p4Drain c .fh 0) _)
  have hcalled := h.trans _ _ _ hheld (h.callbackStep (fun p s => h.called p s _) hu)
  have hraw := h.trans _ _ _ (h.phase (.p4Drain c .raw 0) u) (h.rawPass (fun _ p s => h.called p s _) hv)
  have hshown := h.trans _ _ _ (h.phase (.p4Drain c .activity 0) v) (h.indicateActivity hw)
  have hdecoded := h.classTest (fun _ p s => h.called p s _) ht
  exact h.trans _ _ _ (h.trans _ _ _ hcalled hraw) (h.trans _ _ _ hshown hdecoded)

theorem transportAvailable (h : KeptByOperations R) {s : State} {r : Bool × State}
    (hr : transportAvailable s = .next r) : R s r.2 := by
  obtain ⟨t, ht, hr⟩ := andThen_eq_next.mp hr
  cases hr
  have harrive := h.arrive t
  have hrx : (drawArrivals t.env).2.rx = t.env.rx := by rw [drawArrivals_env]
  rw [← hrx] at harrive
  exact h.trans _ _ _ (h.reach ht) harrive

theorem transportNext (h : KeptByOperations R) {s t : State} {f : Frame} (ht : transportNext s = .next (f, t)) :
    R s t := by
  obtain ⟨u, hu, ht⟩ := andThen_eq_next.mp ht
  dsimp only at ht
  split at ht
  · cases ht
  · rename_i g rest hrx
    split at ht
    · cases ht
      exact h.trans _ _ _ (h.reach hu) (h.trans _ _ _ (h.retrieve f rest u hrx) (h.event _ _))
    · cases ht

theorem drainFrom (h : KeptByOperations R) {n c : Nat} {s t : State} (ht : drainFrom n c s = .next t) : R s t := by
  induction n generalizing c s with
  | zero => cases ht; exact h.refl _
  | succ n ih =>
    obtain ⟨query, hquery, ht⟩ := andThen_eq_next.mp ht
    split at ht
    · obtain ⟨⟨f, u⟩, hu, ht⟩ := andThen_eq_next.mp ht
      obtain ⟨v, hv, ht⟩ := andThen_eq_next.mp ht
      obtain ⟨_, -, hlen, -⟩ := transportNext_eq_next hu
      have hretrieved := h.trans _ _ _ (h.transportAvailable hquery) (h.transportNext hu)
      exact h.trans _ _ _ hretrieved (h.trans _ _ _ (h.dispatchFrame hlen hv) (ih ht))
    · cases ht; exact h.transportAvailable hquery

theorem drain (h : KeptByOperations R) {n : Byte} {s t : State} (ht : drain n s = .next t) : R s t :=
  h.trans _ _ _ (h.phase _ s) (h.drainFrom ht)

theorem pollUi (h : KeptByOperations R) {s t : State} (ht : pollUi s = .next t) : R s t := by
  unfold Machine.pollUi at ht
  split at ht
  · dsimp only at ht
    split at ht
    · cases ht
      have hrun := h.trans _ _ _ (h.turn s) (h.event .uiRun _)
      exact h.trans _ _ _ hrun (h.trans _ _ _ (h.event _ _) (h.latch _ _))
    · cases ht
  · cases ht; exact h.latch _ s

theorem cycle (h : KeptByOperations R) {n : Byte} {s t : State} (ht : cycle n s = .next t) : R s t := by
  obtain ⟨u, hu, ht⟩ := andThen_eq_next.mp ht
  obtain ⟨v, hv, ht⟩ := andThen_eq_next.mp ht
  obtain ⟨w, hw, ht⟩ := andThen_eq_next.mp ht
  obtain ⟨x, hx, ht⟩ := andThen_eq_next.mp ht
  cases ht
  have hpolled := h.trans _ _ _ (h.phase .p1Ui s) (h.pollUi hu)
  have hacted := h.trans _ _ _ hpolled (h.actOn (fun _ _ => h.event _) hv)
  have hjudged := h.trans _ _ _ (h.phase .p5Tmo w) (h.trans _ _ _ (h.timeoutCheck hx) (h.phase .idle x))
  exact h.trans _ _ _ hacted (h.trans _ _ _ (h.drain hw) hjudged)

theorem receive (h : KeptByOperations R) {f : Frame} {s t : State} (ht : receive f s = .next t) : R s t := by
  unfold Machine.receive at ht
  split at ht
  · exact h.quietly (fun _ => h.keepingPhase fun _ => h.dispatchFrame ‹_›) ht
  · cases ht

theorem reportedAction (h : KeptByOperations R) {a : Byte} {s t : State} (ht : reportedAction a s = .next t) : R s t :=
  h.trans _ _ _ (h.latch a s) (h.quietly (fun _ => h.keepingPhase fun _ => h.actOn fun _ _ => h.event _) ht)

theorem execProcess (h : KeptByOperations R) {n : Byte} {s t : State} (ht : execProcess n s = .next t) : R s t := by
  unfold Machine.execProcess at ht
  split at ht
  · exact h.quietly (fun _ => h.cycle) ht
  · cases ht

theorem execPUi (h : KeptByOperations R) {s t : State} (ht : execPUi s = .next t) : R s t := by
  obtain ⟨u, hu, ht⟩ := andThen_eq_next.mp ht
  cases ht
  exact h.trans _ _ _ (h.pollUi hu) (h.answer _ u)

theorem answerRow (h : KeptByOperations R) {c : Bool} {s t : State}
    (ht : Machine.passAnswer c (emit (.handlerAnswer c) s) = .next t) : R s t :=
  h.trans _ _ _ (h.answered c s) (h.passAnswer ht)

/-- A relation that every update keeps holds across every instruction but RESET. -/
theorem exec (h : KeptByOperations R) {i : Instr} {s t : State} (hi : i ≠ .reset) (ht : exec i s = .next t) : R s t := by
  cases i with
  | reset => exact absurd rfl hi
  | process n => exact h.execProcess ht
  | pUi => exact h.execPUi ht
  | drain n => exact h.quietly (fun _ => h.keepingPhase fun _ => h.drain) ht
  | housekeep a => exact h.quietly (fun _ => h.keepingPhase fun _ => h.housekeepFrom fun i => h.event _) ht
  | fhCall => exact h.quietly (fun _ => h.keepingPhase fun _ => h.callbackStep fun p s => h.called p s _) ht
  | rawdisp => exact h.quietly (fun _ => h.keepingPhase fun _ => h.rawPass fun _ p s => h.called p s _) ht
  | activity => exact h.quietly (fun _ => h.indicateActivity) ht
  | decdisp => exact h.quietly (fun _ => h.keepingPhase fun _ => h.decodedPass fun _ p s => h.called p s _) ht
  | svcInit => exact h.quietly (fun _ => h.initFrom h.drawn fun i => h.event _) ht
  | qput m => exact h.execQput ht
  | qget => exact h.execQget ht
  | qclear => exact h.execQclear ht
  | qpeek | qavail | qsize | qfull | qputs | qgets | qovf | qhwm => exact h.answers ht
  | minit | mreneg => exact h.quietly (fun _ => h.negotiate) ht
  | mconfirm => exact h.quietly (fun _ => h.confirm fun _ _ => h.invokeHook) ht
  | mtimeout => exact h.quietly (fun _ => h.timeoutCheck) ht
  | mrevert => exact h.quietly (fun _ => h.revert) ht
  | msetslim => exact h.quietly (fun _ => h.setSlim) ht
  | museract a => exact h.quietly (fun _ => h.applyAction) ht
  | indicate v => exact h.quietly (fun _ => h.indicateMode) ht
  | indSlim | indFlim | indModechanging => exact h.quietly (fun _ => h.indicateMode) ht
  | enumStart => exact h.quietly (fun _ => h.handOff fun _ _ => h.invokeHook) ht
  | send m => exact h.execSend ht
  | sendnn | sendRqnn | sendNnrel | sendWrack | sendCmderr | sendGrsp => exact h.answeringSend ht
  | rqnn | nnrel | wrack | cmderr | grsp => exact h.answeringSend ht
  | fExt rtr len data hdr => exact h.receive (f := ⟨true, rtr, len, data, hdr⟩) ht
  | fZero rtr data hdr => exact h.receive (f := ⟨false, rtr, 0#4, data, hdr⟩) ht
  | fStd rtr len data hdr => exact h.receive (f := ⟨false, rtr, len, data, hdr⟩) ht
  | fIllegal => cases ht
  | actNone | actChangeMode | actRenegotiate | actEnumeration => exact h.reportedAction ht
  | ansNotClaimed | ansClaimed => exact h.answerRow ht

end KeptByOperations

end Sys2Proof.Machine
end

section
/-!
PROOF. What every step keeps: the invariant, the parameters, the record and true time, the high-water mark, and the
sequencer's IDLE. Each is a relation that every single update keeps, so it holds across every operation.
-/
namespace Sys2Proof.Machine

/-! ### The record -/

/-- The record of transactions goes on by events of one kind. -/
def GrowsBy (kind : Event → Bool) (s t : State) : Prop :=
  ∃ es, t.trace = s.trace ++ es ∧ ∀ e ∈ es, kind e = true

theorem GrowsBy.of_trace_eq {kind : Event → Bool} {s t : State} (h : t.trace = s.trace) : GrowsBy kind s t :=
  ⟨[], by simp [h], by simp⟩

theorem GrowsBy.trans {kind : Event → Bool} {s t u : State} (hst : GrowsBy kind s t) (htu : GrowsBy kind t u) :
    GrowsBy kind s u := by
  obtain ⟨es, hs, hes⟩ := hst
  obtain ⟨fs, ht, hfs⟩ := htu
  refine ⟨es ++ fs, by rw [ht, hs, List.append_assoc], fun e he => ?_⟩
  exact (List.mem_append.mp he).elim (hes e) (hfs e)

theorem growsBy_emit {kind : Event → Bool} {e : Event} (s : State) (he : kind e = true) : GrowsBy kind s (emit e s) :=
  ⟨[e], rfl, by simpa using he⟩

/-! ### The invariant -/

/-- The invariant speaks of the parameters, the queue, `started` and the held frame only. -/
theorem Inv.congr {s t : State} (h : Inv s) (hpar : t.par = s.par) (hqueue : t.queue = s.queue)
    (hstarted : t.started = s.started) (hheld : t.frameHeld = s.frameHeld) (hfrm : t.frm = s.frm)
    (hmsg : t.msg = s.msg) : Inv t where
  parameters := hpar ▸ h.parameters
  queue := by rw [hpar, hqueue]; exact h.queue
  started_lt := by rw [hpar, hstarted]; exact h.started_lt
  held := by rw [hheld, hfrm, hmsg]; exact h.held

theorem Inv.setQueue {s : State} (h : Inv s) {q : Queue} (hq : QueueInv s.par q) : Inv { s with queue := q } :=
  { h with queue := hq }

theorem Inv.holdFrame {s : State} (h : Inv s) {f : Frame} (hlen : legalLen f.len = true) : Inv (holdFrame f s) :=
  { h with held := fun _ => ⟨rfl, hlen⟩ }

/-! ### What every operation but RESET does to a state -/

/-- The parameters and the inputs to come stay, the record and true time go on, the high-water mark does not fall, and
the invariant is kept. -/
structure Evolves (s t : State) : Prop where
  par_eq : t.par = s.par
  inbox_eq : t.inbox = s.inbox
  record : GrowsBy (fun _ => true) s t
  time_le : s.env.time ≤ t.env.time
  hwm_le : s.queue.hwm ≤ t.queue.hwm
  inv : Inv s → Inv t

theorem Evolves.refl (s : State) : Evolves s s :=
  ⟨rfl, rfl, .of_trace_eq rfl, Nat.le_refl _, Nat.le_refl _, id⟩

theorem Evolves.trans {s t u : State} (h : Evolves s t) (h' : Evolves t u) : Evolves s u where
  par_eq := h'.par_eq.trans h.par_eq
  inbox_eq := h'.inbox_eq.trans h.inbox_eq
  record := h.record.trans h'.record
  time_le := h.time_le.trans h'.time_le
  hwm_le := h.hwm_le.trans h'.hwm_le
  inv := h'.inv ∘ h.inv

/-- An update of the outside agents alone. -/
theorem Evolves.setEnv {s : State} {e : Env} (htime : s.env.time ≤ e.time) : Evolves s { s with env := e } :=
  { Evolves.refl s with time_le := htime, inv := fun h => h.congr rfl rfl rfl rfl rfl rfl }

/-- An update of the queue alone. -/
theorem Evolves.setQueue {s : State} {q : Queue} (hhwm : s.queue.hwm ≤ q.hwm)
    (hinv : QueueInv s.par s.queue → QueueInv s.par q) : Evolves s { s with queue := q } :=
  { Evolves.refl s with hwm_le := hhwm, inv := fun h => h.setQueue (hinv h.queue) }

theorem hwm_le_queuePut (p : Params) (m : Message) (q : Queue) : q.hwm ≤ (queuePut p m q).hwm := by
  cases hfull : q.full with
  | true => rw [queuePut_of_full p m hfull]; exact Nat.le_refl _
  | false => rw [queuePut_of_not_full p m hfull, queueAdd_hwm]; exact Nat.le_max_left _ _

theorem queueGet_hwm (p : Params) (life : Nat) (q : Queue) : (queueGet p life q).2.hwm = q.hwm := by
  unfold queueGet
  split <;> rfl

/-- Each single update evolves the state, so every operation made of them does. -/
theorem keptByOperations_evolves : KeptByOperations Evolves where
  refl := Evolves.refl
  trans _ _ _ := Evolves.trans
  agents _ _ h := .setEnv h.time_le
  record _ s _ := { Evolves.refl s with record := growsBy_emit s rfl, inv := fun h => h.congr rfl rfl rfl rfl rfl rfl }
  answer _ s := { Evolves.refl s with inv := fun h => h.congr rfl rfl rfl rfl rfl rfl }
  config _ s := { Evolves.refl s with inv := fun h => h.congr rfl rfl rfl rfl rfl rfl }
  flag _ s := { Evolves.refl s with inv := fun h => h.congr rfl rfl rfl rfl rfl rfl }
  timer _ s hn := { Evolves.refl s with inv := fun h => { h with started_lt := hn } }
  put m s := .setQueue (hwm_le_queuePut s.par m s.queue) fun h => h.put m
  get s := .setQueue (queueGet_hwm s.par s.lives s.queue).ge fun h => h.get s.lives
  clear _ := .setQueue (Nat.le_refl _) QueueInv.clear
  drawn s := .setEnv (drawBehaviour_time s.env).ge
  answered _ s := { Evolves.refl s with record := growsBy_emit s rfl, inv := fun h => h.congr rfl rfl rfl rfl rfl rfl }
  phase _ s := { Evolves.refl s with inv := fun h => h.congr rfl rfl rfl rfl rfl rfl }
  event _ s := { Evolves.refl s with record := growsBy_emit s rfl, inv := fun h => h.congr rfl rfl rfl rfl rfl rfl }
  hold _ s hlen := { Evolves.refl s with inv := fun h => h.holdFrame hlen }
  latch _ s := { Evolves.refl s with inv := fun h => h.congr rfl rfl rfl rfl rfl rfl }
  turn s := .setEnv (drawTurn_time s.env).ge
  arrive s := .setEnv (drawArrivals_time s.env).ge
  retrieve _ _ _ _ := .setEnv (Nat.le_refl _)

theorem exec_evolves {i : Instr} {s t : State} (hi : i ≠ .reset) (h : exec i s = .next t) : Evolves s t :=
  keptByOperations_evolves.exec hi h

/-! ### Construction -/

/-- The block with every element at its reset value, before its services are initialized (70_reset_and_hazards.md R240). -/
def constructed (p : Params) (nn : NodeNumber) (canid mode : Byte) (s : State) : State :=
  { State.reset with
    par := p, lives := s.lives + 1, env := s.env, trace := s.trace, inbox := s.inbox
    cfg := { nn := nn, canid := BitVec.setWidth 7 canid, mode := BitVec.setWidth 1 mode } }

theorem construct_of_legal {p : Params} {canid mode : Byte} (nn : NodeNumber) (s : State)
    (h : legalConstruction p canid mode = true) :
    construct p nn canid mode s = initServices (constructed p nn canid mode s) :=
  if_pos h

theorem construct_of_illegal {p : Params} {canid mode : Byte} (nn : NodeNumber) (s : State)
    (h : legalConstruction p canid mode = false) : construct p nn canid mode s = .refused .illegalParameter :=
  if_neg (by simp [h])

/-- A construction that answers a next state had legal parameters, and initialized the services. -/
theorem construct_eq_next {p : Params} {nn : NodeNumber} {canid mode : Byte} {s t : State}
    (h : construct p nn canid mode s = .next t) :
    legalConstruction p canid mode = true ∧ initServices (constructed p nn canid mode s) = .next t := by
  cases hlegal : legalConstruction p canid mode with
  | true => exact ⟨rfl, construct_of_legal nn s hlegal ▸ h⟩
  | false => simp [construct_of_illegal nn s hlegal] at h

theorem initServices_evolves {s t : State} (h : initServices s = .next t) : Evolves s t :=
  keptByOperations_evolves.initFrom keptByOperations_evolves.drawn (fun _ => keptByOperations_evolves.event _) h

theorem legalConstruction_iff (p : Params) (canid mode : Byte) :
    legalConstruction p canid mode = true ↔
      1 ≤ p.capacity ∧ p.capacity ≤ 255 ∧ p.services.length ≤ 255 ∧ p.whitelist.length ≤ 255 ∧
        p.timeoutMs < 2 ^ p.clockWidth ∧ 1 ≤ p.counterWidth ∧ canid.toNat ≤ 127 ∧ mode.toNat ≤ 1 := by
  simp [legalConstruction, and_assoc]

/-- The range of a construction parameter does not depend on the Configuration content. -/
theorem legalConstruction_zero {p : Params} {canid mode : Byte} (h : legalConstruction p canid mode = true) :
    legalConstruction p 0x00#8 0x00#8 = true := by
  rw [legalConstruction_iff] at h ⊢
  simp [h]

/-- The block as constructed meets the invariant. -/
theorem inv_constructed {p : Params} {canid mode : Byte} (nn : NodeNumber) (s : State)
    (h : legalConstruction p canid mode = true) : Inv (constructed p nn canid mode s) where
  parameters := legalConstruction_zero h
  queue := .fresh p ((legalConstruction_iff p canid mode).mp h).1
  started_lt := Nat.two_pow_pos _
  held hheld := by cases hheld

theorem construct_keeps_inv {p : Params} {nn : NodeNumber} {canid mode : Byte} {s t : State}
    (h : construct p nn canid mode s = .next t) : Inv t := by
  obtain ⟨hlegal, hinit⟩ := construct_eq_next h
  exact (initServices_evolves hinit).inv (inv_constructed nn s hlegal)

/-- RESET is a construction with the machine's own parameters. -/
theorem exec_reset_eq_next {s t : State} (h : exec .reset s = .next t) :
    ∃ canid mode u, construct s.par s.cfg.nn canid mode s = .next u ∧ t = answering .nothing u := by
  obtain ⟨u, hu, ht⟩ := quietly_eq_next.mp h
  exact ⟨_, _, u, hu, ht⟩

theorem exec_keeps_inv {i : Instr} {s t : State} (hinv : Inv s) (h : exec i s = .next t) : Inv t := by
  by_cases hi : i = .reset
  · subst hi
    obtain ⟨_, _, u, hu, rfl⟩ := exec_reset_eq_next h
    exact (construct_keeps_inv hu).congr rfl rfl rfl rfl rfl rfl
  · exact (exec_evolves hi h).inv hinv

/-! ### The step -/

/-- What a step that answers a next state can be: the block idles, runs an instruction, has its Configuration store set,
or is constructed. -/
theorem step_eq_next {s t : State} (h : step s = .next t) :
    t = s ∨
    ∃ rest, (∃ i, exec i { s with inbox := rest } = .next t) ∨
      (∃ w, setCfg w { s with inbox := rest } = .next t) ∨
      ∃ p nn canid mode, construct p nn canid mode { s with inbox := rest } = .next t := by
  unfold step at h
  split at h
  · cases h; exact .inl rfl
  · rename_i p rest _
    refine .inr ⟨rest, .inl ?_⟩
    split at h
    · cases h
    · rename_i i _
      refine ⟨i, ?_⟩
      unfold runWord at h
      split at h
      · split at h
        · cases h
        · exact h
      · exact h
  · exact .inr ⟨_, .inr (.inl ⟨_, h⟩)⟩
  · exact .inr ⟨_, .inr (.inr ⟨_, _, _, _, h⟩)⟩

theorem setCfg_evolves {w : CfgWrite} {s t : State} (h : setCfg w s = .next t) : Evolves s t := by
  obtain ⟨-, rfl⟩ := setCfg_eq_next.mp h
  exact keptByOperations_evolves.storeCfg w s

/-- A construction, too, only adds to the record and to true time. -/
theorem construct_grows {p : Params} {nn : NodeNumber} {canid mode : Byte} {s t : State}
    (h : construct p nn canid mode s = .next t) : GrowsBy (fun _ => true) s t ∧ s.env.time ≤ t.env.time := by
  obtain ⟨-, hinit⟩ := construct_eq_next h
  have hgrows := initServices_evolves hinit
  exact ⟨hgrows.record, hgrows.time_le⟩

theorem exec_grows {i : Instr} {s t : State} (h : exec i s = .next t) :
    GrowsBy (fun _ => true) s t ∧ s.env.time ≤ t.env.time := by
  by_cases hi : i = .reset
  · subst hi
    obtain ⟨_, _, u, hu, rfl⟩ := exec_reset_eq_next h
    exact (construct_grows hu :)
  · have hgrows := exec_evolves hi h
    exact ⟨hgrows.record, hgrows.time_le⟩

theorem step_grows {s t : State} (h : step s = .next t) :
    GrowsBy (fun _ => true) s t ∧ s.env.time ≤ t.env.time := by
  obtain rfl | ⟨rest, ⟨i, hi⟩ | ⟨w, hw⟩ | ⟨p, nn, canid, mode, hc⟩⟩ := step_eq_next h
  · exact ⟨.of_trace_eq rfl, Nat.le_refl _⟩
  · exact (exec_grows hi :)
  · exact ⟨(setCfg_evolves hw).record, (setCfg_evolves hw).time_le⟩
  · exact (construct_grows hc :)

/-! ### The sequencer between operations -/

theorem keptByParties_seq : KeptByParties fun s t => t.seq = s.seq where
  refl _ := rfl
  trans _ _ _ hst htu := htu.trans hst
  agents _ _ _ := rfl
  record _ _ _ := rfl
  answer _ _ := rfl
  config _ _ := rfl
  flag _ _ := rfl
  timer _ _ _ := rfl
  put _ _ := rfl
  get _ := rfl
  clear _ := rfl

theorem invokeHook_seq {s t : State} (h : invokeHook s = .next t) : t.seq = s.seq :=
  keptByParties_seq.invokeHook (fun _ => rfl) h

theorem initServices_seq {s t : State} (h : initServices s = .next t) : t.seq = s.seq :=
  keptByParties_seq.initFrom (fun _ => rfl) (fun _ _ => rfl) h

theorem quietly_keepingPhase_seq {op : State → Result} {s t : State} (h : quietly (keepingPhase op) s = .next t) :
    t.seq = s.seq := by
  obtain ⟨u, hu, rfl⟩ := quietly_eq_next.mp h
  obtain ⟨v, -, rfl⟩ := keepingPhase_eq_next.mp hu
  rfl

theorem construct_seq {p : Params} {nn : NodeNumber} {canid mode : Byte} {s t : State}
    (h : construct p nn canid mode s = .next t) : t.seq = .idle := by
  obtain ⟨-, hinit⟩ := construct_eq_next h
  exact initServices_seq hinit

theorem execProcess_seq {n : Byte} {s t : State} (h : execProcess n s = .next t) : t.seq = .idle := by
  unfold execProcess at h
  split at h
  · obtain ⟨u, hu, rfl⟩ := quietly_eq_next.mp h
    obtain ⟨_, -, hu⟩ := andThen_eq_next.mp hu
    obtain ⟨_, -, hu⟩ := andThen_eq_next.mp hu
    obtain ⟨_, -, hu⟩ := andThen_eq_next.mp hu
    obtain ⟨_, -, hu⟩ := andThen_eq_next.mp hu
    cases hu
    rfl
  · cases h

theorem execPUi_seq {s t : State} (h : execPUi s = .next t) : t.seq = s.seq := by
  obtain ⟨u, hu, ht⟩ := andThen_eq_next.mp h
  cases ht
  unfold pollUi at hu
  split at hu
  · dsimp only at hu
    split at hu
    · cases hu; rfl
    · cases hu
  · cases hu; rfl

theorem receive_seq {f : Frame} {s t : State} (h : receive f s = .next t) : t.seq = s.seq := by
  unfold receive at h
  split at h
  · exact quietly_keepingPhase_seq h
  · cases h

theorem reportedAction_seq {a : Byte} {s t : State} (h : reportedAction a s = .next t) : t.seq = s.seq :=
  (quietly_keepingPhase_seq h :)

/-- No handler is invoked while the sequencer is IDLE, so none can answer (log 16). -/
theorem passAnswer_of_idle (c : Bool) {s : State} (h : s.seq = .idle) : passAnswer c s = .refused .answerOutsideHandler := by
  simp [passAnswer, seqAfterAnswer, h]

theorem exec_ansClaimed_of_idle {s : State} (h : s.seq = .idle) :
    exec .ansClaimed s = .refused .answerOutsideHandler :=
  passAnswer_of_idle true h

theorem exec_ansNotClaimed_of_idle {s : State} (h : s.seq = .idle) :
    exec .ansNotClaimed s = .refused .answerOutsideHandler :=
  passAnswer_of_idle false h

theorem exec_seq_idle {i : Instr} {s t : State} (hidle : s.seq = .idle) (h : exec i s = .next t) : t.seq = .idle := by
  have hkept {u : State} (hu : u.seq = s.seq) : u.seq = .idle := hu.trans hidle
  have hparty := keptByParties_seq
  cases i with
  | reset =>
    obtain ⟨_, _, u, hu, rfl⟩ := exec_reset_eq_next h
    exact (construct_seq hu :)
  | process n => exact execProcess_seq h
  | pUi => exact hkept (execPUi_seq h)
  | drain | housekeep | fhCall | rawdisp | decdisp => exact hkept (quietly_keepingPhase_seq h)
  | actNone | actChangeMode | actRenegotiate | actEnumeration => exact hkept (reportedAction_seq h)
  | fExt rtr len data hdr => exact hkept (receive_seq (f := ⟨true, rtr, len, data, hdr⟩) h)
  | fZero rtr data hdr => exact hkept (receive_seq (f := ⟨false, rtr, 0#4, data, hdr⟩) h)
  | fStd rtr len data hdr => exact hkept (receive_seq (f := ⟨false, rtr, len, data, hdr⟩) h)
  | fIllegal => cases h
  | activity => exact hkept (hparty.quietly (fun _ => hparty.indicateActivity) h)
  | svcInit => exact hkept (hparty.quietly (fun _ => initServices_seq) h)
  | qput m => exact hkept (hparty.execQput h)
  | qget => exact hkept (hparty.execQget h)
  | qclear => exact hkept (hparty.execQclear h)
  | qpeek | qavail | qsize | qfull | qputs | qgets | qovf | qhwm => exact hkept (hparty.answers h)
  | minit | mreneg => exact hkept (hparty.quietly (fun _ => hparty.negotiate) h)
  | mconfirm => exact hkept (hparty.quietly (fun _ => hparty.confirm fun _ _ => invokeHook_seq) h)
  | mtimeout => exact hkept (hparty.quietly (fun _ => hparty.timeoutCheck) h)
  | mrevert => exact hkept (hparty.quietly (fun _ => hparty.revert) h)
  | msetslim => exact hkept (hparty.quietly (fun _ => hparty.setSlim) h)
  | museract a => exact hkept (hparty.quietly (fun _ => hparty.applyAction) h)
  | indicate | indSlim | indFlim | indModechanging => exact hkept (hparty.quietly (fun _ => hparty.indicateMode) h)
  | enumStart => exact hkept (hparty.quietly (fun _ => hparty.handOff fun _ _ => invokeHook_seq) h)
  | send m => exact hkept (hparty.execSend h)
  | sendnn | sendRqnn | sendNnrel | sendWrack | sendCmderr | sendGrsp => exact hkept (hparty.answeringSend h)
  | rqnn | nnrel | wrack | cmderr | grsp => exact hkept (hparty.answeringSend h)
  | ansNotClaimed => cases (exec_ansNotClaimed_of_idle hidle).symm.trans h
  | ansClaimed => cases (exec_ansClaimed_of_idle hidle).symm.trans h

/-! ### The obligations -/

/-- Settles O54: an instruction evolves the state, a set leaves all the invariant speaks of, and a construction makes a
state that meets it. -/
theorem everyStepKeepsTheInvariant : Obligations.EveryStepKeepsTheInvariant := by
  intro s t hinv h
  have htaken (rest : List Input) : Inv { s with inbox := rest } := hinv.congr rfl rfl rfl rfl rfl rfl
  obtain rfl | ⟨rest, ⟨i, hi⟩ | ⟨w, hw⟩ | ⟨p, nn, canid, mode, hc⟩⟩ := step_eq_next h
  · exact hinv
  · exact exec_keeps_inv (htaken rest) hi
  · exact (setCfg_evolves hw).inv (htaken rest)
  · exact construct_keeps_inv hc

/-- Settles O53: the reset state is a block as constructed. -/
theorem resetStateMeetsTheInvariant : Obligations.ResetStateMeetsTheInvariant :=
  (inv_constructed 0#16 State.reset (canid := 0x00#8) (mode := 0x00#8) (p := Config.defaultParams) (by decide)).congr
    rfl rfl rfl rfl rfl rfl

/-- Settles O55: an operation restores the sequencer it found, and PROCESS and RESET end IDLE. -/
theorem operationsEndIdle : Obligations.OperationsEndIdle :=
  fun _ _ _ => exec_seq_idle

/-- Settles O56: every update adds to the record and to true time, and a construction carries both over. -/
theorem recordAndTimeOnlyGrow : Obligations.RecordAndTimeOnlyGrow := by
  intro s t h
  obtain ⟨⟨es, hes, -⟩, htime⟩ := step_grows h
  exact ⟨⟨es, hes⟩, htime⟩

/-- Settles O57: no update writes the parameters or the inbox, and RESET constructs with the machine's own. -/
theorem parametersNeverChange : Obligations.ParametersNeverChange := by
  intro i s t h
  by_cases hi : i = .reset
  · subst hi
    obtain ⟨_, _, u, hu, rfl⟩ := exec_reset_eq_next h
    obtain ⟨-, hinit⟩ := construct_eq_next hu
    exact ⟨(initServices_evolves hinit).par_eq, (initServices_evolves hinit).inbox_eq⟩
  · exact ⟨(exec_evolves hi h).par_eq, (exec_evolves hi h).inbox_eq⟩

/-- Settles O59: of the updates of the queue only a stored put moves the high-water mark, and only up. -/
theorem highWaterMarkNeverFalls : Obligations.HighWaterMarkNeverFalls :=
  fun _ _ _ hi h => (exec_evolves hi h).hwm_le

end Sys2Proof.Machine
end

section
/-!
PROOF. The decoder and the encoder (30_encoding.md): each operand shape and each format read back what the encoder writes,
and accept nothing else; and the step on a decoded request (R97).
-/
namespace Sys2Proof.Machine

/-! ### Bytes -/

theorem byte_eq_of_toNat {b : Byte} {n : Nat} (h : b.toNat = n) : b = BitVec.ofNat 8 n := by
  rw [← h, BitVec.ofNat_toNat, BitVec.setWidth_eq]

/-- A node number put together from its bytes has those bytes (30_encoding.md R88). -/
theorem nnHigh_append (hi lo : Byte) : nnHigh (hi ++ lo) = hi := by
  rw [nnHigh, BitVec.extractLsb'_append_eq_of_le (by decide)]
  exact BitVec.extractLsb'_eq_self

theorem nnLow_append (hi lo : Byte) : nnLow (hi ++ lo) = lo := by
  rw [nnLow, BitVec.extractLsb'_append_eq_of_add_le (by decide)]
  exact BitVec.extractLsb'_eq_self

/-- A `len` byte of legal value is the byte of the length it holds. -/
theorem lenByte_setWidth {l : Byte} (h : l.toNat ≤ 8) : lenByte (BitVec.setWidth 4 l) = l := by
  apply BitVec.eq_of_toNat_eq
  simp
  omega

/-! ### The head byte of a frame vector (30_encoding.md R81) -/

theorem frameHead_lt (ext rtr : Bool) (len : BitVec 4) : (frameHead ext rtr len).toNat < 64 := by
  revert ext rtr len; decide

theorem frameHead_ext (ext rtr : Bool) (len : BitVec 4) : (frameHead ext rtr len).getLsbD 5 = ext := by
  revert ext rtr len; decide

theorem frameHead_rtr (ext rtr : Bool) (len : BitVec 4) : (frameHead ext rtr len).getLsbD 4 = rtr := by
  revert ext rtr len; decide

theorem frameHead_len (ext rtr : Bool) (len : BitVec 4) : BitVec.setWidth 4 (frameHead ext rtr len) = len := by
  revert ext rtr len; decide

theorem ext_of_head {h : Byte} (hlt : h.toNat < 64) : h.getLsbD 5 = decide (32 ≤ h.toNat) := by
  rw [BitVec.getLsbD, Nat.testBit_eq_decide_div_mod_eq, decide_eq_decide]
  omega

theorem rtr_of_head (h : Byte) : h.getLsbD 4 = decide (16 ≤ h.toNat % 32) := by
  rw [BitVec.getLsbD, Nat.testBit_eq_decide_div_mod_eq, decide_eq_decide]
  omega

theorem len_of_head (h : Byte) : (BitVec.setWidth 4 h).toNat = h.toNat % 16 := by simp

/-- The head byte is nothing but `ext`, `rtr` and `len`. -/
theorem frameHead_of_head {h : Byte} (hlt : h.toNat < 64) :
    frameHead (h.getLsbD 5) (h.getLsbD 4) (BitVec.setWidth 4 h) = h := by
  apply BitVec.eq_of_toNat_eq
  rw [ext_of_head hlt, rtr_of_head, frameHead, len_of_head, BitVec.toNat_ofNat]
  by_cases hext : 32 ≤ h.toNat <;> by_cases hrtr : 16 ≤ h.toNat % 32 <;> simp [hext, hrtr] <;> omega

/-! ### Frames by class (30_encoding.md R84) -/

theorem frameInstr_wellFormed (ext rtr : Bool) (len : BitVec 4) (data : Payload) (hdr : Nat) :
    (frameInstr ext rtr len data hdr).wellFormed = true := by
  unfold frameInstr
  split
  · exact ‹(!legalLen len) = true›
  split
  · simp_all [Instr.wellFormed]
  split
  · rfl
  · simp_all [Instr.wellFormed]

theorem encode_frameInstr (ext rtr : Bool) (len : BitVec 4) (data : Payload) (hdr : Nat) :
    encode (frameInstr ext rtr len data hdr) = framePacket ext rtr len data hdr := by
  unfold frameInstr
  split
  · rfl
  split
  · simp_all [encode]
  split
  · have hzero : len = 0#4 := BitVec.eq_of_toNat_eq ‹_›
    simp_all [encode]
  · simp_all [encode]

theorem decode_framePacket (ext rtr : Bool) (len : BitVec 4) (data : Payload) (hdr : Nat) :
    decode (framePacket ext rtr len data hdr) = .ok (frameInstr ext rtr len data hdr) :=
  (if_pos (frameHead_lt ext rtr len)).trans (by rw [frameHead_ext, frameHead_rtr, frameHead_len])

theorem decodeFrame_eq_ok {hdr : Nat} {bytes : List Byte} {i : Instr} (h : decodeFrame hdr bytes = .ok i) :
    ∃ ext rtr len data, i = frameInstr ext rtr len data hdr ∧ bytes = frameHead ext rtr len :: data.bytes := by
  unfold decodeFrame at h
  split at h
  · split at h
    · cases h
      exact ⟨_, _, _, _, rfl, by rw [frameHead_of_head ‹_›]; rfl⟩
    · cases h
  · cases h
  · cases h

/-! ### Operations (30_encoding.md R89) -/

theorem decodeByteOperand_eq_ok {mk : Byte → Instr} {bytes left : List Byte} {i : Instr}
    (h : decodeByteOperand mk bytes = .ok (i, left)) : ∃ a, i = mk a ∧ bytes = a :: left := by
  unfold decodeByteOperand at h
  split at h
  · cases h; exact ⟨_, rfl, rfl⟩
  · cases h

theorem decodeThreeBytes_eq_ok {mk : Byte → Byte → Byte → Instr} {bytes left : List Byte} {i : Instr}
    (h : decodeThreeBytes mk bytes = .ok (i, left)) : ∃ a b c, i = mk a b c ∧ bytes = a :: b :: c :: left := by
  unfold decodeThreeBytes at h
  split at h
  · cases h; exact ⟨_, _, _, rfl, rfl⟩
  · cases h

theorem decodeMessageOperand_eq_ok {mk : Message → Instr} {bytes left : List Byte} {i : Instr}
    (h : decodeMessageOperand mk bytes = .ok (i, left)) :
    ∃ m, i = mk m ∧ legalLen m.len = true ∧ bytes = lenByte m.len :: (m.data.bytes ++ left) := by
  unfold decodeMessageOperand at h
  split at h
  · split at h
    · rename_i l _ _ _ _ _ _ _ _ _ hl
      cases h
      have hlen : (BitVec.setWidth 4 l).toNat ≤ 8 := by rw [len_of_head]; omega
      exact ⟨_, rfl, (legalLen_iff _).mpr hlen, by rw [lenByte_setWidth hl]; rfl⟩
    · cases h
  · cases h

theorem decodeIndication_eq_some {c : Byte} {v : Indication} (h : decodeIndication c = some v) : c = v.code := by
  unfold decodeIndication at h
  split at h
  · cases h; exact byte_eq_of_toNat ‹_›
  · cases h; exact byte_eq_of_toNat ‹_›
  · cases h; exact byte_eq_of_toNat ‹_›
  · cases h

theorem decodeIndicate_eq_ok {bytes left : List Byte} {i : Instr} (h : decodeIndicate bytes = .ok (i, left)) :
    ∃ v, i = .indicate v ∧ bytes = v.code :: left := by
  unfold decodeIndicate at h
  split at h
  · split at h
    · rename_i v hv
      cases h
      exact ⟨v, rfl, by rw [decodeIndication_eq_some hv]⟩
    · cases h
  · cases h

/-- The code byte and the operand bytes the decoder takes are those the encoder writes. -/
theorem decodeCommand_eq_ok {c : Byte} {rest left : List Byte} {i : Instr}
    (h : decodeCommand (c :: rest) = .ok (i, left)) :
    i.wellFormed = true ∧ (encode i).bytes ++ left = c :: rest := by
  unfold decodeCommand at h
  dsimp only at h
  split at h
  -- PROCESS, DRAIN, HOUSEKEEP, MUSERACT, SENDNN and SEND_CMDERR: a byte
  case h_2 | h_4 | h_5 | h_28 | h_32 | h_36 =>
    obtain ⟨a, rfl, rfl⟩ := decodeByteOperand_eq_ok h
    exact ⟨rfl, by rw [byte_eq_of_toNat ‹c.toNat = _›]; rfl⟩
  -- QPUT and SEND: a Message
  case h_11 | h_31 =>
    obtain ⟨m, rfl, hlen, rfl⟩ := decodeMessageOperand_eq_ok h
    exact ⟨hlen, by rw [byte_eq_of_toNat ‹c.toNat = _›]; rfl⟩
  -- INDICATE: an indication code
  case h_29 =>
    obtain ⟨v, rfl, rfl⟩ := decodeIndicate_eq_ok h
    exact ⟨rfl, by rw [byte_eq_of_toNat ‹c.toNat = _›]; rfl⟩
  -- SEND_GRSP: three bytes
  case h_37 =>
    obtain ⟨a, b, d, rfl, rfl⟩ := decodeThreeBytes_eq_ok h
    exact ⟨rfl, by rw [byte_eq_of_toNat ‹c.toNat = _›]; rfl⟩
  -- a code outside the table
  case h_38 => cases h
  -- every other operation has no operand
  all_goals
    cases h
    exact ⟨rfl, by rw [byte_eq_of_toNat ‹c.toNat = _›]; rfl⟩

theorem decodeRequest_eq_ok {bytes : List Byte} {i : Instr} (h : decodeRequest bytes = .ok i) :
    i.wellFormed = true ∧ (encode i).bytes = bytes := by
  unfold decodeRequest at h
  split at h
  · rename_i hcommand
    cases h
    cases bytes with
    | nil => cases hcommand
    | cons c rest => simpa using decodeCommand_eq_ok hcommand
  · cases h
  · cases h

/-! ### The other formats -/

theorem decodeMessage_eq_ok {bytes : List Byte} {i : Instr} (h : decodeMessage bytes = .ok i) :
    i.wellFormed = true ∧ (encode i).bytes = bytes := by
  unfold decodeMessage at h
  split at h
  · split at h
    · cases h
    · split at h
      case h_6 => cases h
      all_goals
        rename_i hlen hopc
        cases h
        refine ⟨rfl, ?_⟩
        rw [byte_eq_of_toNat hlen, byte_eq_of_toNat hopc]
        simp only [encode, wirePacket, nnHigh_append, nnLow_append]
  · cases h
  · cases h

/-- The three named actions have the codes 1 to 3. -/
theorem decodeAction_wellFormed (a : Byte) : (decodeAction a).wellFormed = true ∧ (encode (decodeAction a)).bytes = [a] := by
  unfold decodeAction
  split
  · exact ⟨rfl, by rw [byte_eq_of_toNat ‹a.toNat = _›]; rfl⟩
  · exact ⟨rfl, by rw [byte_eq_of_toNat ‹a.toNat = _›]; rfl⟩
  · exact ⟨rfl, by rw [byte_eq_of_toNat ‹a.toNat = _›]; rfl⟩
  · rename_i h1 h2 h3
    refine ⟨?_, rfl⟩
    have hunnamed : a.toNat ≠ 1 ∧ a.toNat ≠ 2 ∧ a.toNat ≠ 3 := ⟨h1, h2, h3⟩
    simp only [Instr.wellFormed, noneCode, Bool.or_eq_true, decide_eq_true_eq]
    omega

theorem decodeAction_of_noneCode {a : Byte} (h : noneCode a = true) : decodeAction a = .actNone a := by
  simp only [noneCode, Bool.or_eq_true, decide_eq_true_eq] at h
  unfold decodeAction
  split
  case h_4 => rfl
  all_goals omega

theorem decodeIndByte_eq_ok {c : Byte} {i : Instr} (h : decodeIndByte c = .ok i) :
    i.wellFormed = true ∧ (encode i).bytes = [c] := by
  unfold decodeIndByte at h
  split at h
  · cases h; exact ⟨rfl, by rw [decodeIndication_eq_some ‹decodeIndication c = _›]; rfl⟩
  · cases h; exact ⟨rfl, by rw [decodeIndication_eq_some ‹decodeIndication c = _›]; rfl⟩
  · cases h; exact ⟨rfl, by rw [decodeIndication_eq_some ‹decodeIndication c = _›]; rfl⟩
  · cases h

theorem decodeAnsByte_eq_ok {c : Byte} {i : Instr} (h : decodeAnsByte c = .ok i) :
    i.wellFormed = true ∧ (encode i).bytes = [c] := by
  unfold decodeAnsByte at h
  split at h
  · cases h; exact ⟨rfl, by rw [byte_eq_of_toNat ‹c.toNat = _›]; rfl⟩
  · cases h; exact ⟨rfl, by rw [byte_eq_of_toNat ‹c.toNat = _›]; rfl⟩
  · cases h

theorem decodeOneByte_eq_ok {f : Byte → Except DecodeError Instr} {bytes : List Byte} {i : Instr}
    (h : decodeOneByte f bytes = .ok i) : ∃ b, bytes = [b] ∧ f b = .ok i := by
  unfold decodeOneByte at h
  split at h
  · exact ⟨_, rfl, h⟩
  · cases h
  · cases h

/-! ### What the decoder rejects (30_encoding.md R97) -/

/-- The codes of the table of R89. -/
def tableCodes : List Nat :=
  [0x00, 0x01, 0x02, 0x03, 0x04, 0x05, 0x06, 0x07, 0x08, 0x09, 0x10, 0x11, 0x12, 0x13, 0x14, 0x15, 0x16, 0x17, 0x18,
    0x19, 0x1A, 0x20, 0x21, 0x22, 0x23, 0x24, 0x25, 0x26, 0x27, 0x30, 0x40, 0x41, 0x42, 0x43, 0x44, 0x45, 0x46]

theorem decodeCommand_of_unlisted {c : Byte} (rest : List Byte) (h : c.toNat ∉ tableCodes) :
    decodeCommand (c :: rest) = .error (.unknownCommand c) := by
  unfold decodeCommand
  dsimp only
  split
  case h_38 => rfl
  all_goals exact absurd (by rw [‹c.toNat = _›]; decide) h

theorem decodeMessageOperand_of_illegal (mk : Message → Instr) {l : Byte} (d0 d1 d2 d3 d4 d5 d6 d7 : Byte)
    (rest : List Byte) (h : 8 < l.toNat) :
    decodeMessageOperand mk (l :: d0 :: d1 :: d2 :: d3 :: d4 :: d5 :: d6 :: d7 :: rest) =
      .error (.illegalMessageLength l) :=
  if_neg (Nat.not_le_of_gt h)

theorem decodeRequest_of_error {bytes : List Byte} {e : DecodeError} (h : decodeCommand bytes = .error e) :
    decodeRequest bytes = .error e := by
  simp only [decodeRequest, h]

/-- The codes marked `I` only (30_encoding.md R89). -/
theorem internalCode_iff (code : Nat) :
    internalCode code = true ↔
      code ∈ [0x02, 0x03, 0x04, 0x05, 0x06, 0x07, 0x08, 0x09, 0x23, 0x26, 0x27, 0x30, 0x42, 0x43] := by
  unfold internalCode
  split <;> simp_all

/-- A request that is no operation is refused as internal only, or by what is wrong with its bytes. -/
theorem requestRefusal_cons (c : Byte) (operands : List Byte) (e : DecodeError) :
    requestRefusal (c :: operands) e =
      if c.toNat ∈ [0x02, 0x03, 0x04, 0x05, 0x06, 0x07, 0x08, 0x09, 0x23, 0x26, 0x27, 0x30, 0x42, 0x43] then
        .internalCommand
      else refusalOf e := by
  simp only [requestRefusal, internalCode_iff]

/-! ### The step on a request -/

theorem step_of_nil {s : State} (h : s.inbox = []) : step s = .next s := by
  simp only [step, h]

theorem step_of_word {s : State} {p : Packet} {rest : List Input} {i : Instr} (hin : s.inbox = .word p :: rest)
    (hp : decode p = .ok i) : step s = runWord p.port i { s with inbox := rest } := by
  simp only [step, hin, hp]

theorem step_of_request {s : State} {bytes : List Byte} {rest : List Input} {i : Instr}
    (hin : s.inbox = .word ⟨.host, bytes⟩ :: rest) (hi : decodeRequest bytes = .ok i) :
    step s = runWord .host i { s with inbox := rest } :=
  step_of_word hin hi

theorem step_of_malformed_request {s : State} {bytes : List Byte} {rest : List Input} {e : DecodeError}
    (hin : s.inbox = .word ⟨.host, bytes⟩ :: rest) (he : decodeRequest bytes = .error e) :
    step s = .refused (requestRefusal bytes e) := by
  simp [step, hin, decode, he]

theorem runWord_host_of_busy (i : Instr) {s : State} (h : s.seq ≠ .idle) :
    runWord .host i s = .refused .reentrantProcess := by
  simp [runWord, admitHost, h]

theorem runWord_host_of_internal {i : Instr} {s : State} (hidle : s.seq = .idle) (hi : hostMay i = false) :
    runWord .host i s = .refused .internalCommand := by
  simp [runWord, admitHost, hidle, hi]

theorem runWord_host_of_may {i : Instr} {s : State} (hidle : s.seq = .idle) (hi : hostMay i = true) :
    runWord .host i s = exec i s := by
  simp [runWord, admitHost, hidle, hi]

theorem runWord_of_not_host {port : Port} (i : Instr) (s : State) (h : port ≠ .host) : runWord port i s = exec i s := by
  cases port with
  | host => exact absurd rfl h
  | _ => rfl

/-! ### The obligations -/

/-- Settles O1: by rows; a Message operand, a frame and a node number are read back by their own lemmas, and every other
row is a fixed word. -/
theorem encodedInstructionIsReadBack : Obligations.EncodedInstructionIsReadBack := by
  intro i hwf
  cases i with
  | qput m => exact decode_encode_qput m ((legalLen_iff m.len).mp hwf)
  | send m => exact decode_encode_send m ((legalLen_iff m.len).mp hwf)
  | indicate v => cases v <;> rfl
  | fExt rtr len data hdr =>
    have hlen : legalLen len = true := hwf
    simp [encode, decode_framePacket, frameInstr, hlen]
  | fZero rtr data hdr => exact decode_framePacket false rtr 0#4 data hdr
  | fStd rtr len data hdr =>
    have hlen : legalLen len = true ∧ len.toNat ≠ 0 := by simpa [Instr.wellFormed] using hwf
    rw [encode, decode_framePacket, frameInstr, hlen.1, if_neg (by decide), if_neg (by decide), if_neg hlen.2]
  | fIllegal ext rtr len data hdr =>
    have hlen : (!legalLen len) = true := hwf
    rw [encode, decode_framePacket, frameInstr, if_pos hlen]
  | rqnn nn | nnrel nn | wrack nn | cmderr nn | grsp nn =>
    simp [encode, wirePacket, decode, decodeMessage, nnHigh_append_nnLow]
  | actNone code => exact congrArg Except.ok (decodeAction_of_noneCode hwf)
  | _ => rfl

/-- Settles O2: by formats, each of whose decoders gives an instruction of the table with the bytes it took. -/
theorem decodedInstructionHasThoseBytes : Obligations.DecodedInstructionHasThoseBytes := by
  rintro ⟨port, bytes⟩ i h
  cases port with
  | host | internal => exact decodeRequest_eq_ok h
  | frame hdr =>
    obtain ⟨ext, rtr, len, data, rfl, hbytes⟩ := decodeFrame_eq_ok h
    exact ⟨frameInstr_wellFormed ext rtr len data hdr, by rw [encode_frameInstr]; exact hbytes.symm⟩
  | msg => exact decodeMessage_eq_ok h
  | act =>
    obtain ⟨a, rfl, ha⟩ := decodeOneByte_eq_ok h
    cases ha
    exact decodeAction_wellFormed a
  | ind =>
    obtain ⟨c, rfl, hc⟩ := decodeOneByte_eq_ok h
    exact decodeIndByte_eq_ok hc
  | ans =>
    obtain ⟨c, rfl, hc⟩ := decodeOneByte_eq_ok h
    exact decodeAnsByte_eq_ok hc

/-- Settles O3: each word is read by the decoder as it stands. -/
theorem writtenWordsDecode : Obligations.WrittenWordsDecode :=
  ⟨rfl, rfl, rfl, rfl, rfl, rfl, rfl, rfl, rfl⟩

/-- Settles O4: the bits of the head byte are its `ext`, `rtr` and `len`, and the class test asks for the length first. -/
theorem framesFallIntoTheirClasses : Obligations.FramesFallIntoTheirClasses := by
  intro hdr h d0 d1 d2 d3 d4 d5 d6 d7 hlt
  have hlen : BitVec.setWidth 4 h = BitVec.ofNat 4 h.toNat := BitVec.eq_of_toNat_eq (by simp)
  have hlegal : (!legalLen (BitVec.ofNat 4 h.toNat)) = decide (8 < h.toNat % 16) := by
    rw [← hlen, legalLen, len_of_head, ← decide_not, decide_eq_decide, Nat.not_le]
  simp only [decode, decodeFrame, if_pos hlt, frameInstr, ext_of_head hlt, rtr_of_head, hlen, hlegal, decide_eq_true_eq,
    BitVec.toNat_ofNat]

/-- Settles O5: an unlisted code falls through the table, and the operand decoder checks the whole `len` byte. -/
theorem illegalCommandsAreRejected : Obligations.IllegalCommandsAreRejected := by
  refine ⟨fun c rest hc => decodeRequest_of_error (decodeCommand_of_unlisted rest hc),
    fun l d0 d1 d2 d3 d4 d5 d6 d7 hl => ⟨decodeRequest_of_error ?put, decodeRequest_of_error ?send⟩⟩
  case put => exact decodeMessageOperand_of_illegal .qput d0 d1 d2 d3 d4 d5 d6 d7 [] hl
  case send => exact decodeMessageOperand_of_illegal .send d0 d1 d2 d3 d4 d5 d6 d7 [] hl

/-- Settles O6: an admitted request, and every word of another port, runs its meaning. -/
theorem stepRunsTheDecodedInstruction : Obligations.StepRunsTheDecodedInstruction := by
  refine ⟨fun s p rest i hin hp hhost => ?_, fun s => step_of_nil⟩
  rw [step_of_word hin hp]
  by_cases hport : p.port = .host
  · obtain ⟨hidle, hmay⟩ := hhost hport
    rw [hport]
    exact runWord_host_of_may hidle hmay
  · exact runWord_of_not_host i _ hport

/-- Settles O7: a decoded request is refused by the admission, and other bytes by `requestRefusal`. -/
theorem hostRequestsAreAdmittedOrRefused : Obligations.HostRequestsAreAdmittedOrRefused := by
  intro s bytes rest hin
  refine ⟨fun i hi hbusy => ?busy, fun i hi hidle hinternal => ?internal, fun c operands e hbytes he => ?malformed,
    fun hbytes => ?empty⟩
  case busy => exact (step_of_request hin hi).trans (runWord_host_of_busy i hbusy)
  case internal =>
    have hmay : hostMay i = false := by
      obtain rfl | ⟨_, rfl⟩ | ⟨_, rfl⟩ | rfl | rfl | rfl | rfl | rfl | rfl | ⟨_, rfl⟩ | ⟨_, rfl⟩ | rfl | rfl | rfl :=
        hinternal <;> rfl
    exact (step_of_request hin hi).trans (runWord_host_of_internal hidle hmay)
  case malformed =>
    have hrefused := step_of_malformed_request hin he
    rw [hbytes, requestRefusal_cons] at hrefused
    split
    · rwa [if_pos ‹_›] at hrefused
    · rw [if_neg ‹_›] at hrefused
      cases e <;> exact hrefused
  case empty =>
    subst hbytes
    exact step_of_malformed_request hin rfl

end Sys2Proof.Machine
end

section
/-!
PROOF. The queue as the list of its entries (40_queue.md R121; 10_state.md R31, R32).
-/
namespace Sys2Proof.Machine

/-! ### The contents -/

/-- Two different entries of a queue with room have different slots. -/
theorem slot_ne_of_lt {capacity head j size : Nat} (hj : j < size) (hsize : size < capacity) :
    (head + j) % capacity ≠ (head + size) % capacity := by
  intro h
  have hmod : j ≡ size [MOD capacity] := Nat.ModEq.add_left_cancel' head h
  exact Nat.ne_of_lt hj (hmod.eq_of_lt_of_lt (hj.trans hsize) hsize)

theorem queueContents_of_empty (p : Params) {q : Queue} (h : q.size = 0) : queueContents p q = [] := by
  simp [queueContents, h]

theorem queueContents_length {p : Params} {q : Queue} (h : QueueInv p q) : (queueContents p q).length = q.size := by
  have hwritten : ∀ j ∈ List.range q.size, (readSlot ((q.head + j) % p.capacity) q.store).isSome = true :=
    fun j hj => h.occupied j (List.mem_range.mp hj)
  rw [queueContents, List.length_filterMap_eq_countP, List.countP_eq_length.mpr hwritten, List.length_range]

/-- A stored put appends (40_queue.md R110). -/
theorem queueContents_add {p : Params} {q : Queue} (h : QueueInv p q) (hfull : q.full = false) (m : Message) :
    queueContents p (queueAdd p m q) = queueContents p q ++ [m] := by
  have hold : ∀ j ∈ List.range q.size,
      readSlot ((q.head + j) % p.capacity) (queueAdd p m q).store = readSlot ((q.head + j) % p.capacity) q.store := by
    intro j hj
    rw [readSlot_queueAdd, if_neg]
    rw [h.tail_eq]
    exact slot_ne_of_lt (List.mem_range.mp hj) (h.room hfull)
  have hnew : readSlot ((q.head + q.size) % p.capacity) (queueAdd p m q).store = some m := by
    rw [readSlot_queueAdd, if_pos h.tail_eq.symm]
  show ((List.range (q.size + 1)).filterMap fun j =>
    readSlot ((q.head + j) % p.capacity) (queueAdd p m q).store) = _
  rw [List.range_succ, List.filterMap_append, List.filterMap_congr hold]
  simp [hnew, queueContents]

/-- A get takes the first entry (40_queue.md R111). -/
theorem queueContents_drop {p : Params} {q : Queue} (h : QueueInv p q) (hs : 0 < q.size) (life : Nat) :
    queueContents p q = queueFront life q :: queueContents p (queueDrop p q) := by
  obtain ⟨k, hk⟩ := Nat.exists_eq_succ_of_ne_zero (Nat.ne_of_gt hs)
  have hfront : readSlot ((q.head + 0) % p.capacity) q.store = some (queueFront life q) := by
    rw [Nat.add_zero, Nat.mod_eq_of_lt h.head_lt, h.front hs life]
  have hnext : ∀ j, (q.head + (j + 1)) % p.capacity = (nextIndex p.capacity q.head + j) % p.capacity := by
    intro j
    rw [nextIndex, Nat.mod_add_mod, Nat.add_assoc, Nat.add_comm 1 j]
  rw [queueContents, hk, List.range_succ_eq_map, 
    List.filterMap_cons_some (f := fun j => readSlot ((q.head + j) % p.capacity) q.store) hfront, List.filterMap_map]
  simp only [queueContents, queueDrop, hk, Nat.succ_eq_add_one, Nat.add_sub_cancel, Function.comp_def, hnext]

/-- A put, stored or rejected. -/
theorem queueContents_put {p : Params} {q : Queue} (h : QueueInv p q) (m : Message) :
    queueContents p (queuePut p m q) =
      if q.size < p.capacity then queueContents p q ++ [m] else queueContents p q := by
  cases hfull : q.full with
  | true =>
    rw [queuePut_of_full p m hfull, h.full_iff.mp hfull, if_neg (Nat.lt_irrefl _)]
    rfl
  | false => rw [queuePut_of_not_full p m hfull, queueContents_add h hfull, if_pos (h.room hfull)]

/-! ### Puts only (10_state.md R31; 40_queue.md R121 (2)) -/

/-- The queue after these puts. -/
def queueAfterPuts (p : Params) (ms : List Message) (q : Queue) : Queue := ms.foldl (fun q m => queuePut p m q) q

/-- What a run of puts makes of a queue from which nothing has been taken: the sizes and the mark stop at the capacity,
the rest is counted as overflow, and the entries held are the first. -/
theorem queueAfterPuts_spec {p : Params} (ms : List Message) {q : Queue} (h : QueueInv p q) (hhwm : q.hwm = q.size) :
    (queueAfterPuts p ms q).hwm = min (q.size + ms.length) p.capacity ∧
    (queueAfterPuts p ms q).size = min (q.size + ms.length) p.capacity ∧
    (queueAfterPuts p ms q).overflows = (q.overflows + (q.size + ms.length - p.capacity)) % 2 ^ p.counterWidth ∧
    queueContents p (queueAfterPuts p ms q) = (queueContents p q ++ ms).take p.capacity := by
  induction ms generalizing q with
  | nil =>
    have hsize := h.size_le
    have hlen := queueContents_length h
    have hno : q.size - p.capacity = 0 := Nat.sub_eq_zero_of_le hsize
    refine ⟨?_, ?_, ?_, ?_⟩
    · simpa [queueAfterPuts, hhwm] using hsize
    · simpa [queueAfterPuts] using hsize
    · simp [queueAfterPuts, hno, Nat.mod_eq_of_lt h.overflows_lt]
    · simp [queueAfterPuts, List.take_of_length_le (hlen.trans_le hsize)]
  | cons m ms ih =>
    show _ ∧ _ ∧ _ ∧ queueContents p (queueAfterPuts p ms (queuePut p m q)) = _
    cases hfull : q.full with
    | true =>
      have hsize := h.full_iff.mp hfull
      have hlen := queueContents_length h
      obtain ⟨ihhwm, ihsize, ihovf, ihcontents⟩ := ih (q := queueReject p q) h.reject hhwm
      simp only [queueAfterPuts, List.foldl_cons, queuePut_of_full p m hfull] at *
      refine ⟨ihhwm.trans ?_, ihsize.trans ?_, ihovf.trans ?_, ihcontents.trans ?_⟩
      · simp [queueReject, hsize]
      · simp [queueReject, hsize]
      · simp [queueReject, hsize, addModulo, Nat.add_assoc, Nat.add_comm 1]
      · have hheld : (queueContents p q).length = p.capacity := hlen.trans hsize
        show (queueContents p q ++ ms).take p.capacity = _
        rw [← hheld, List.take_left, List.take_left]
    | false =>
      have hroom := h.room hfull
      have hmark : (queueAdd p m q).hwm = (queueAdd p m q).size := by
        rw [queueAdd_hwm, hhwm]
        exact Nat.max_eq_right (Nat.le_succ _)
      obtain ⟨ihhwm, ihsize, ihovf, ihcontents⟩ := ih (h.add hfull m) hmark
      have hcount : q.size + 1 + ms.length = q.size + (ms.length + 1) := by omega
      rw [queueContents_add h hfull, List.append_assoc] at ihcontents
      simp only [queueAfterPuts, List.foldl_cons, queuePut_of_not_full p m hfull, List.length_cons, ← hcount] at *
      exact ⟨ihhwm, ihsize, ihovf, ihcontents⟩

/-! ### The obligations -/

/-- Settles O10: no slot of the empty store is written, and every other value is a field of the reset state. -/
theorem resetStateHoldsTheSpecsValues : Obligations.ResetStateHoldsTheSpecsValues :=
  ⟨rfl, rfl, rfl, rfl, rfl, rfl, rfl, rfl, fun _ => rfl, rfl, rfl, rfl, rfl, rfl, rfl⟩

/-- Settles O17: the contents after a put and before a get are told by `queueContents_put` and `queueContents_drop`. -/
theorem queueIsFirstInFirstOut : Obligations.QueueIsFirstInFirstOut := by
  intro s h
  refine ⟨fun m hlen => ?put, ?get, ?peek, ?clear⟩
  case put => exact ⟨_, exec_qput_of_le s hlen, queueContents_put h m⟩
  case get =>
    rcases Nat.eq_zero_or_pos s.queue.size with hempty | hpos
    · refine ⟨_, exec_qget_of_empty hempty, ?_⟩
      rw [queueContents_of_empty s.par hempty]
      exact ⟨rfl, rfl⟩
    · refine ⟨_, exec_qget_of_pos hpos, ?_⟩
      rw [queueContents_drop h hpos s.lives]
      exact ⟨rfl, rfl⟩
  case peek =>
    rcases Nat.eq_zero_or_pos s.queue.size with hempty | hpos
    · refine ⟨_, exec_qpeek_of_empty hempty, rfl, ?_⟩
      rw [queueContents_of_empty s.par hempty]
      rfl
    · refine ⟨_, exec_qpeek_of_pos hpos, rfl, ?_⟩
      rw [queueContents_drop h hpos s.lives]
      rfl
  case clear => exact ⟨_, exec_qclear s, queueContents_of_empty s.par rfl⟩

/-- Settles O18: the run of puts of `queueAfterPuts_spec`, begun on a new queue. -/
theorem highWaterMarkAfterPuts : Obligations.HighWaterMarkAfterPuts := by
  intro p ms hcapacity
  simpa [queueAfterPuts, queueContents_of_empty, Queue.fresh] using queueAfterPuts_spec ms (.fresh p hcapacity) rfl

end Sys2Proof.Machine
end

section
/-!
PROOF. The rest of the mode machine (42_mode_fsm.md R150, R153 to R155, R161), the hand-off (43_enumeration.md R170), the
longer messages (45_wire_messages.md R200, R201), and the sets of the Configuration store (10_state.md R40).
-/
namespace Sys2Proof.Machine

/-! ### The Configuration store -/

theorem setCfg_of_legal {w : CfgWrite} (s : State) (h : legalCfgWrite w = true) : setCfg w s = .next (storeCfg w s) :=
  if_pos h

theorem setCfg_of_illegal {w : CfgWrite} (s : State) (h : legalCfgWrite w = false) :
    setCfg w s = .refused .illegalConfigValue :=
  if_neg (by simp [h])

theorem setCfg_canid_of_gt {v : Byte} (s : State) (h : 127 < v.toNat) :
    setCfg (.canid v) s = .refused .illegalConfigValue :=
  setCfg_of_illegal s (decide_eq_false (Nat.not_le_of_gt h))

theorem setCfg_mode_of_gt {v : Byte} (s : State) (h : 1 < v.toNat) :
    setCfg (.mode v) s = .refused .illegalConfigValue :=
  setCfg_of_illegal s (decide_eq_false (Nat.not_le_of_gt h))

theorem canid_toNat_of_le {v : Byte} (h : v.toNat ≤ 127) : (BitVec.setWidth 7 v).toNat = v.toNat := by
  simp; omega

theorem mode_toNat_of_le {v : Byte} (h : v.toNat ≤ 1) : (BitVec.setWidth 1 v).toNat = v.toNat := by
  simp; omega

theorem step_of_cfgSet {s : State} {w : CfgWrite} {rest : List Input} (h : s.inbox = .cfgSet w :: rest) :
    step s = setCfg w { s with inbox := rest } := by
  simp only [step, h]

/-! ### Looking a service up (41_service_pipeline.md R138) -/

/-- The search finds the least index with the identifier, counting on from where it begins. -/
theorem findFrom_eq_some {id : Byte} {services : List Service} {i n : Nat} :
    findFrom id i services = some n ↔
      ∃ k, n = i + k ∧ (∃ svc, services[k]? = some svc ∧ svc.id = id) ∧
        ∀ j < k, ∀ svc, services[j]? = some svc → svc.id ≠ id := by
  induction services generalizing i with
  | nil => simp [findFrom]
  | cons svc rest ih =>
    by_cases hid : svc.id = id
    · rw [findFrom, if_pos hid]
      constructor
      · rintro ⟨rfl⟩
        exact ⟨0, rfl, ⟨svc, rfl, hid⟩, fun j hj => absurd hj (Nat.not_lt_zero j)⟩
      · rintro ⟨k, rfl, -, hbefore⟩
        cases k with
        | zero => rfl
        | succ k => exact absurd hid (hbefore 0 (Nat.succ_pos k) svc rfl)
    · rw [findFrom, if_neg hid, ih]
      constructor
      · rintro ⟨k, rfl, hat, hbefore⟩
        refine ⟨k + 1, by omega, hat, fun j hj other hother => ?_⟩
        cases j with
        | zero => cases hother; exact hid
        | succ j => exact hbefore j (by omega) other hother
      · rintro ⟨k, rfl, ⟨found, hfound, hfid⟩, hbefore⟩
        cases k with
        | zero => cases hfound; exact absurd hfid hid
        | succ k =>
          exact ⟨k, by omega, ⟨found, hfound, hfid⟩, fun j hj other => hbefore (j + 1) (by omega) other⟩

theorem findFrom_eq_none {id : Byte} {services : List Service} {i : Nat} :
    findFrom id i services = none ↔ ∀ svc ∈ services, svc.id ≠ id := by
  induction services generalizing i with
  | nil => simp [findFrom]
  | cons svc rest ih =>
    by_cases hid : svc.id = id
    · simp [findFrom, hid]
    · simp [findFrom, hid, ih]

/-! ### Invocations that return at once -/

theorem invoke_of_done {s : State} {c : Bool} {rest : List Behaviour} (h : s.env.behaviours = .done c :: rest) :
    invoke s = .next (c, { s with env := { s.env with behaviours := rest } }) := by
  rw [invoke, drawBehaviour_of_cons h]
  rfl

theorem invokeHook_of_done {s : State} {c : Bool} {rest : List Behaviour} (h : s.env.behaviours = .done c :: rest) :
    invokeHook s = .next { s with env := { s.env with behaviours := rest } } := by
  rw [invokeHook, invoke_of_done h, andThen_next]

/-! ### The hand-off and MCONFIRM -/

theorem handOff_of_none (enumerate : State → Result) {s : State}
    (h : findService s.par.svcIdCan s.par.services = none) : handOff enumerate s = .next s := by
  simp only [handOff, h]

theorem handOff_of_some (enumerate : State → Result) {s : State} {i : Nat}
    (h : findService s.par.svcIdCan s.par.services = some i) :
    handOff enumerate s = enumerate (emit (.svcEnumerate i) s) := by
  simp only [handOff, h]

/-- The state MCONFIRM makes before the hand-off, where all transactions return (42_mode_fsm.md R153). -/
def enteredFlim (s : State) : State :=
  { s with
    changing := false, cfg := { s.cfg with mode := 1#1 }
    trace := s.trace ++ [.cfgSet (.mode 0x01#8)] ++ shownMode s 0x01#8 }

theorem confirm_of_allReturn (enumerate : State → Result) {s : State} (h : AllReturn s) :
    confirm enumerate s = handOff enumerate (enteredFlim s) := by
  rw [confirm, indicateMode_of_allReturn .flim (s := storeCfg (.mode 0x01#8) { s with changing := false }) h,
    andThen_next]
  rfl

/-! ### MTIMEOUT (42_mode_fsm.md R155) -/

theorem timeoutCheck_of_stable {s : State} (h : s.changing = false) : timeoutCheck s = .next s := by
  simp [timeoutCheck, h]

/-- The state in which the timeout is judged: one clock sample later. -/
theorem clockDrawn_clockNow (s : State) : ClockDrawn s.env (clockNow s).2.env :=
  clockDrawn_drawTick s.env

theorem timeoutCheck_of_pending {s : State} (h : s.changing = true)
    (hpending : subModulo s.par.clockWidth (clockNow s).1 s.started < s.par.timeoutMs) :
    timeoutCheck s = .next (clockNow s).2 := by
  rw [timeoutCheck, if_pos h]
  exact if_neg (Nat.not_le_of_gt hpending)

theorem timeoutCheck_of_expired {s : State} (h : s.changing = true)
    (hexpired : s.par.timeoutMs ≤ subModulo s.par.clockWidth (clockNow s).1 s.started) :
    timeoutCheck s = andThen (indicateMode (stableIndication s.cfg.mode) (clockNow s).2) fun t =>
      .next { t with changing := false } := by
  rw [timeoutCheck, if_pos h]
  exact if_pos hexpired

/-- The codes 0 and 1 of the indications are the modes (30_encoding.md R93). -/
theorem stableIndication_code (mode : BitVec 1) : (stableIndication mode).code = BitVec.setWidth 8 mode := by
  rcases BitVec.eq_zero_or_eq_one mode with rfl | rfl <;> rfl

theorem timeoutCheck_of_expired_of_allReturn {s : State} (hreturn : AllReturn s) (h : s.changing = true)
    (hexpired : s.par.timeoutMs ≤ subModulo s.par.clockWidth (clockNow s).1 s.started) :
    timeoutCheck s = .next { s with
      env := (clockNow s).2.env, changing := false
      trace := s.trace ++ [.clockNow ((clockNow s).2.env.time % 2 ^ s.par.clockWidth)] ++
        shownMode s (BitVec.setWidth 8 s.cfg.mode) } := by
  have hstill : AllReturn (clockNow s).2 := (agentsGoOn_clockNow s).return_of_return hreturn
  rw [timeoutCheck_of_expired h hexpired, indicateMode_of_allReturn _ hstill, stableIndication_code]
  rfl

theorem timeoutCheck_completes {s : State} (hreturn : AllReturn s) : ∃ t, timeoutCheck s = .next t := by
  cases hchanging : s.changing with
  | false => exact ⟨_, timeoutCheck_of_stable hchanging⟩
  | true =>
    by_cases hpending : subModulo s.par.clockWidth (clockNow s).1 s.started < s.par.timeoutMs
    · exact ⟨_, timeoutCheck_of_pending hchanging hpending⟩
    · exact ⟨_, timeoutCheck_of_expired_of_allReturn hreturn hchanging (Nat.le_of_not_lt hpending)⟩

/-- Modular subtraction of the two samples is the elapsed time, modulo 2^CLKW, whatever the counter's absolute value
(42_mode_fsm.md R161). -/
theorem subModulo_samples (w : Nat) {t0 t : Nat} (h : t0 ≤ t) :
    subModulo w (t % 2 ^ w) (t0 % 2 ^ w) = (t - t0) % 2 ^ w := by
  obtain ⟨d, rfl⟩ := Nat.exists_eq_add_of_le h
  have hlt : t0 % 2 ^ w < 2 ^ w := Nat.mod_lt _ (Nat.two_pow_pos w)
  have hdiv := Nat.div_add_mod t0 (2 ^ w)
  have hsum : t0 + d + (2 ^ w - t0 % 2 ^ w) = d + 2 ^ w * (t0 / 2 ^ w + 1) := by
    rw [Nat.mul_add_one]
    omega
  rw [subModulo, Nat.mod_mod, Nat.mod_mod, Nat.mod_add_mod, hsum, Nat.add_mul_mod_self_left, Nat.add_sub_cancel_left]

/-- MTIMEOUT, when it answers a next state: the judgement by the time of the sample. -/
theorem timeoutCheck_judges {s t : State} (hchanging : s.changing = true) (h : timeoutCheck s = .next t) :
    t.cfg = s.cfg ∧ t.started = s.started ∧
      t.changing = decide
        (subModulo s.par.clockWidth (t.env.time % 2 ^ s.par.clockWidth) s.started < s.par.timeoutMs) := by
  by_cases hpending : subModulo s.par.clockWidth (clockNow s).1 s.started < s.par.timeoutMs
  · rw [timeoutCheck_of_pending hchanging hpending] at h
    cases h
    exact ⟨rfl, rfl, hchanging.trans (decide_eq_true hpending).symm⟩
  · rw [timeoutCheck_of_expired hchanging (Nat.le_of_not_lt hpending)] at h
    obtain ⟨u, hu, ht⟩ := andThen_eq_next.mp h
    cases ht
    rw [indicateMode_eq_next hu]
    exact ⟨rfl, rfl, (decide_eq_false hpending).symm⟩

/-! ### The state graph (42_mode_fsm.md R154) -/

theorem modeState_of_changing {s : State} (h : s.changing = true) : modeState s = .modeChanging := by
  simp [modeState, h]

theorem modeState_of_stable {s : State} (h : s.changing = false) :
    modeState s = if s.cfg.mode = 0#1 then .slim else .flim := by
  simp [modeState, h]

theorem exec_mconfirm (s : State) : exec .mconfirm s = quietly (confirm invokeHook) s := rfl

/-- MCONFIRM without a bus-address service, when it answers a next state. -/
theorem confirm_eq_next_of_none {enumerate : State → Result} {s t : State}
    (hnone : findService s.par.svcIdCan s.par.services = none) (h : confirm enumerate s = .next t) :
    t.changing = false ∧ t.cfg = { s.cfg with mode := 1#1 } := by
  obtain ⟨u, hu, ht⟩ := andThen_eq_next.mp h
  have hu := indicateMode_eq_next hu
  rw [handOff_of_none enumerate (by rw [hu]; exact hnone)] at ht
  cases ht
  rw [hu]
  exact ⟨rfl, rfl⟩

/-! ### The longer messages -/

/-- The five wire-message rows hand over a Message whose presented bytes carry the row's node number (log 13). -/
theorem exec_wireRow {i : Instr} {s : State} {hi lo d3 d4 d5 d6 d7 : Byte} {bytes : List Byte}
    (h : i = .rqnn (hi ++ lo) d3 d4 d5 d6 d7 ∧ bytes = [s.par.opcRqnn, hi, lo] ∨
      i = .nnrel (hi ++ lo) d3 d4 d5 d6 d7 ∧ bytes = [s.par.opcNnrel, hi, lo] ∨
      i = .wrack (hi ++ lo) d3 d4 d5 d6 d7 ∧ bytes = [s.par.opcWrack, hi, lo] ∨
      i = .cmderr (hi ++ lo) d3 d4 d5 d6 d7 ∧ bytes = [s.par.opcCmderr, hi, lo, d3] ∨
      i = .grsp (hi ++ lo) d3 d4 d5 d6 d7 ∧ bytes = [s.par.opcGrsp, hi, lo, d3, d4, d5]) :
    ∃ m, presented m = bytes ∧ exec i s = answeringSend (transportSend m s) := by
  have hbytes (len : BitVec 4) (opc : Byte) : presented (wireMessage len opc (hi ++ lo) d3 d4 d5 d6 d7) =
      [opc, hi, lo, d3, d4, d5, d6, d7].take len.toNat := by
    rw [presented, wireMessage, nnHigh_append, nnLow_append]
    rfl
  obtain ⟨rfl, rfl⟩ | ⟨rfl, rfl⟩ | ⟨rfl, rfl⟩ | ⟨rfl, rfl⟩ | ⟨rfl, rfl⟩ := h
  · exact ⟨_, hbytes 3#4 s.par.opcRqnn, rfl⟩
  · exact ⟨_, hbytes 3#4 s.par.opcNnrel, rfl⟩
  · exact ⟨_, hbytes 3#4 s.par.opcWrack, rfl⟩
  · exact ⟨_, hbytes 4#4 s.par.opcCmderr, rfl⟩
  · exact ⟨_, hbytes 6#4 s.par.opcGrsp, rfl⟩

/-! ### The obligations -/

/-- Settles O8: the range check, then the store's write of the one field. -/
theorem outsideSetsOfTheConfigurationStore : Obligations.OutsideSetsOfTheConfigurationStore := by
  intro s w rest hin
  have hstep := step_of_cfgSet hin
  cases w with
  | nn v => exact hstep.trans (setCfg_of_legal _ rfl)
  | canid v =>
    by_cases hle : v.toNat ≤ 127
    · simp only [if_pos hle]
      exact ⟨_, hstep.trans (setCfg_of_legal _ (decide_eq_true hle)), canid_toNat_of_le hle, rfl⟩
    · simp only [if_neg hle]
      exact hstep.trans (setCfg_canid_of_gt _ (Nat.lt_of_not_le hle))
  | mode v =>
    by_cases hle : v.toNat ≤ 1
    · simp only [if_pos hle]
      exact ⟨_, hstep.trans (setCfg_of_legal _ (decide_eq_true hle)), mode_toNat_of_le hle, rfl⟩
    · simp only [if_neg hle]
      exact hstep.trans (setCfg_mode_of_gt _ (Nat.lt_of_not_le hle))

/-- Settles O20: the state before the hand-off is one, and the hand-off finds no service or invokes one that returns. -/
theorem confirmationEntersFlim : Obligations.ConfirmationEntersFlim := by
  refine ⟨rfl, fun s hreturn => ⟨fun hnone => ?none, fun i claimed rest hsome hdone => ?some⟩⟩
  case none =>
    have hhanded := (confirm_of_allReturn invokeHook hreturn).trans (handOff_of_none (s := enteredFlim s) invokeHook hnone)
    exact (exec_mconfirm s).trans (quietly_of_next hhanded)
  case some =>
    have hinvoked := (handOff_of_some (s := enteredFlim s) invokeHook hsome).trans
      (invokeHook_of_done (s := emit (.svcEnumerate i) (enteredFlim s)) hdone)
    exact (exec_mconfirm s).trans (quietly_of_next ((confirm_of_allReturn invokeHook hreturn).trans hinvoked))

/-- Settles O21: the hand-off of what `findService` answers, and `findService` as the least index. -/
theorem enumerationIsHandedOff : Obligations.EnumerationIsHandedOff := by
  refine ⟨fun s => ⟨fun hnone => ?none, fun i claimed rest hsome hdone => ?some⟩,
    fun id services => ⟨fun i => ?least, findFrom_eq_none⟩⟩
  case none => exact quietly_of_next (handOff_of_none invokeHook hnone)
  case some => exact quietly_of_next ((handOff_of_some invokeHook hsome).trans (invokeHook_of_done hdone))
  case least =>
    rw [findService, findFrom_eq_some]
    simp

/-- Settles O22: by `changing`, and by the sample against TIMEOUT_MS. -/
theorem timeoutIsJudgedByTheClock : Obligations.TimeoutIsJudgedByTheClock := by
  refine ⟨rfl, fun s => ⟨fun hstable => quietly_of_next (timeoutCheck_of_stable hstable), fun hchanging =>
    ⟨_, clockDrawn_clockNow s, fun hpending => ?pending, fun hexpired hreturn => ?expired⟩⟩⟩
  case pending => exact quietly_of_next (timeoutCheck_of_pending hchanging hpending)
  case expired => exact quietly_of_next (timeoutCheck_of_expired_of_allReturn hreturn hchanging hexpired)

/-- Settles O23: the check completes, and its modular difference is the true time elapsed. -/
theorem timerSurvivesRollover : Obligations.TimerSurvivesRollover := by
  intro s t0 hreturn hchanging ht0 hstarted
  obtain ⟨t, ht⟩ := timeoutCheck_completes hreturn
  obtain ⟨htime, -⟩ := timeoutCheck_eq_next ht
  obtain ⟨-, -, hjudged⟩ := timeoutCheck_judges hchanging ht
  have hfires : t.changing = false ↔ s.par.timeoutMs ≤ (t.env.time - t0) % 2 ^ s.par.clockWidth := by
    rw [hjudged, hstarted, subModulo_samples _ (ht0.trans htime), decide_eq_false_iff_not, Nat.not_lt]
  refine ⟨_, quietly_of_next ht, htime, hfires, fun hshort => ?_⟩
  have helapsed : (t.env.time - t0) % 2 ^ s.par.clockWidth = t.env.time - t0 := Nat.mod_eq_of_lt hshort
  rwa [helapsed] at hfires

/-- Settles O27: one transaction of `indicateMode` or `indicateActivity`, and nothing else. -/
theorem indicationsAreShown : Obligations.IndicationsAreShown := by
  intro s v hreturn
  refine ⟨?_, rfl, rfl, rfl, quietly_of_next (indicateActivity_of_allReturn hreturn)⟩
  have hshown := quietly_of_next (indicateMode_of_allReturn v hreturn)
  cases v <;> exact hshown

/-- Settles O28: the end of each transition, from what its operation does when it answers a next state. -/
theorem modeStateGraph : Obligations.ModeStateGraph := by
  intro i s t h
  refine ⟨fun hi => ?negotiation, fun hi => ?slim, fun hi hnone => ?flim, fun hi => ?timeout⟩
  case negotiation =>
    rw [exec_negotiation s hi] at h
    obtain ⟨u, hu, rfl⟩ := quietly_eq_next.mp h
    obtain ⟨-, ok, hu⟩ := negotiate_eq_next hu
    rw [hu]
    exact ⟨modeState_of_changing rfl, rfl, rfl⟩
  case slim =>
    obtain rfl | rfl := hi
    · obtain ⟨u, hu, rfl⟩ := quietly_eq_next.mp h
      obtain ⟨-, ok, hu⟩ := revert_eq_next hu
      rw [hu]
      exact ⟨modeState_of_stable rfl, rfl⟩
    · obtain ⟨u, hu, rfl⟩ := quietly_eq_next.mp h
      rw [setSlim_eq_next hu]
      exact ⟨modeState_of_stable rfl, rfl⟩
  case flim =>
    subst hi
    obtain ⟨u, hu, rfl⟩ := quietly_eq_next.mp h
    obtain ⟨hstable, hcfg⟩ := confirm_eq_next_of_none hnone hu
    refine ⟨(modeState_of_stable hstable).trans ?_, hcfg⟩
    rw [hcfg]
    rfl
  case timeout =>
    subst hi
    obtain ⟨u, hu, rfl⟩ := quietly_eq_next.mp h
    cases hchanging : s.changing with
    | false =>
      rw [timeoutCheck_of_stable hchanging] at hu
      cases hu
      exact ⟨rfl, rfl, fun _ => rfl, nofun⟩
    | true =>
      obtain ⟨hcfg, hstarted, hjudged⟩ := timeoutCheck_judges hchanging hu
      refine ⟨hcfg, hstarted, nofun, fun _ => ?_⟩
      by_cases hpending :
          subModulo s.par.clockWidth (u.env.time % 2 ^ s.par.clockWidth) s.started < s.par.timeoutMs
      · exact (modeState_of_changing (hjudged.trans (decide_eq_true hpending))).trans (if_pos hpending).symm
      · refine (modeState_of_stable (hjudged.trans (decide_eq_false hpending))).trans ?_
        rw [hcfg]
        exact (if_neg hpending).symm

/-- Settles O31: the presented bytes of the two Messages are the operands after the opcode and the node number. -/
theorem longMessagesCarryTheirOperands : Obligations.LongMessagesCarryTheirOperands := by
  intro s hreturn
  have hnn := (nnHigh_append_nnLow s.cfg.nn).symm
  refine ⟨fun err => ?error, fun opc svcType result => ?response⟩
  case error =>
    obtain ⟨ok, e, hdrawn, hsent⟩ :=
      answeringSend_transportSend_of_allReturn (errorMessage s.par.opcCmderr s.cfg.nn err) hreturn
    exact ⟨ok, e, _, _, hdrawn, hnn, hsent⟩
  case response =>
    obtain ⟨ok, e, hdrawn, hsent⟩ :=
      answeringSend_transportSend_of_allReturn (responseMessage s.par.opcGrsp s.cfg.nn opc svcType result) hreturn
    exact ⟨ok, e, _, _, hdrawn, hnn, hsent⟩

/-- Settles O32: each row is one send of the Message `exec_wireRow` names. -/
theorem wireMessageRowsAreSent : Obligations.WireMessageRowsAreSent := by
  rintro i s _ hi lo d3 d4 d5 d6 d7 bytes hreturn rfl hrow
  obtain ⟨m, hm, hexec⟩ := exec_wireRow hrow
  obtain ⟨ok, e, hdrawn, hsent⟩ := answeringSend_transportSend_of_allReturn m hreturn
  exact ⟨ok, e, hdrawn, by rw [hexec, hsent, hm]⟩

end Sys2Proof.Machine
end

section
/-!
PROOF. The service pipeline (41_service_pipeline.md): the passes where every invoked party returns at once, what a pass
records whatever the parties do, the callback's filter, and construction with RESET (70_reset_and_hazards.md R240).
-/
namespace Sys2Proof.Machine

/-! ### Sequencing -/

theorem keepingPhase_of_next {op : State → Result} {s t : State} (h : op s = .next t) :
    keepingPhase op s = .next (atPhase s.seq t) :=
  keepingPhase_eq_next.mpr ⟨t, h, rfl⟩

/-- A step of another operation that ends in this state ends with the sequencer where it began and answers nothing. -/
theorem quietly_keepingPhase_of_next {op : State → Result} {s t : State} (h : op s = .next t) :
    quietly (keepingPhase op) s = .next (answering .nothing (atPhase s.seq t)) :=
  quietly_of_next (keepingPhase_of_next h)

/-! ### Hooks that return at once -/

theorem answersAtOnce_cons (c : Bool) (answers : List Bool) :
    answersAtOnce (c :: answers) = .done c :: answersAtOnce answers := rfl

/-- Initializers that return at once, from index `i` on. -/
theorem initFrom_of_answers {answers : List Bool} {more : List Behaviour} {i : Nat} {s : State}
    (h : s.env.behaviours = answersAtOnce answers ++ more) :
    initFrom answers.length i s = .next { s with
      env := { s.env with behaviours := more }
      trace := s.trace ++ (List.range' i answers.length).map Event.svcInit } := by
  induction answers generalizing i s with
  | nil =>
    have hmore : s.env.behaviours = more := h
    subst hmore
    simp [initFrom]
  | cons c answers ih =>
    rw [answersAtOnce_cons, List.cons_append] at h
    rw [List.length_cons, initFrom, invokeHook_of_done (s := emit (.svcInit i) s) h, andThen_next, ih rfl]
    simp [List.range'_succ]

theorem initServices_of_answers {answers : List Bool} {more : List Behaviour} {s : State}
    (hlen : answers.length = serviceCount s) (h : s.env.behaviours = answersAtOnce answers ++ more) :
    initServices s = .next { s with
      env := { s.env with behaviours := more }
      trace := s.trace ++ (List.range (serviceCount s)).map Event.svcInit } := by
  rw [initServices, ← serviceCount, ← hlen, initFrom_of_answers h, List.range_eq_range']

/-- Hooks that return at once, from index `i` on; the sequencer moves with them. -/
theorem housekeepFrom_of_answers {answers : List Bool} {more : List Behaviour} (a : Byte) {i : Nat} {s : State}
    (h : s.env.behaviours = answersAtOnce answers ++ more) :
    ∃ p, housekeepFrom a answers.length i s = .next { s with
      seq := p, env := { s.env with behaviours := more }
      trace := s.trace ++ (List.range' i answers.length).map fun j => Event.svcHousekeep j a } := by
  induction answers generalizing i s with
  | nil =>
    have hmore : s.env.behaviours = more := h
    subst hmore
    exact ⟨s.seq, by simp [housekeepFrom]⟩
  | cons c answers ih =>
    rw [answersAtOnce_cons, List.cons_append] at h
    rw [List.length_cons, housekeepFrom,
      invokeHook_of_done (s := emit (.svcHousekeep i a) (atPhase (.p3House i) s)) h, andThen_next]
    obtain ⟨p, hp⟩ := ih (i := i + 1) (s := { s with
      seq := .p3House i, trace := s.trace ++ [.svcHousekeep i a]
      env := { s.env with behaviours := answersAtOnce answers ++ more } }) rfl
    exact ⟨p, hp.trans (by simp [List.range'_succ])⟩

theorem housekeep_of_answers {answers : List Bool} {more : List Behaviour} (a : Byte) {s : State}
    (hlen : answers.length = serviceCount s) (h : s.env.behaviours = answersAtOnce answers ++ more) :
    ∃ p, housekeep a s = .next { s with
      seq := p, env := { s.env with behaviours := more }
      trace := s.trace ++ (List.range (serviceCount s)).map fun j => Event.svcHousekeep j a } := by
  rw [housekeep, ← serviceCount, ← hlen, List.range_eq_range']
  exact housekeepFrom_of_answers a h

/-! ### A pass whose handlers answer at once (41_service_pipeline.md R136) -/

/-- What FRM and MSG read as, before and after. -/
structure SameFrame (s t : State) : Prop where
  frm_eq : t.frm = s.frm
  msg_eq : t.msg = s.msg
  held_eq : t.frameHeld = s.frameHeld
  lives_eq : t.lives = s.lives

theorem SameFrame.refl (s : State) : SameFrame s s := ⟨rfl, rfl, rfl, rfl⟩

theorem SameFrame.trans {s t u : State} (h : SameFrame s t) (h' : SameFrame t u) : SameFrame s u :=
  ⟨h'.frm_eq.trans h.frm_eq, h'.msg_eq.trans h.msg_eq, h'.held_eq.trans h.held_eq, h'.lives_eq.trans h.lives_eq⟩

theorem SameFrame.rawCall_eq {s t : State} (h : SameFrame s t) (i : Nat) : rawCall i t = rawCall i s := by
  simp only [rawCall, readFrm, h.frm_eq, h.held_eq, h.lives_eq]

theorem SameFrame.decodedCall_eq {s t : State} (h : SameFrame s t) (i : Nat) : decodedCall i t = decodedCall i s := by
  simp only [decodedCall, readMsg, h.msg_eq, h.held_eq, h.lives_eq]

theorem readFrm_of_held {s : State} (h : s.frameHeld = true) : readFrm s = s.frm := if_pos h

theorem readMsg_of_held {s : State} (h : s.frameHeld = true) : readMsg s = s.msg := if_pos h

theorem rawCall_of_held {s : State} (h : s.frameHeld = true) (i : Nat) : rawCall i s = .svcRaw i s.frm := by
  rw [rawCall, readFrm_of_held h]

theorem decodedCall_of_held {s : State} (h : s.frameHeld = true) (i : Nat) :
    decodedCall i s = .svcMsg i s.msg.data.d0 s.msg := by
  rw [decodedCall, readMsg_of_held h, opcodeOf]

/-- The sub-phases in which handlers are invoked. -/
def isPass (sub : Sub) : Bool :=
  match sub with
  | .raw | .dec => true
  | .fh | .activity => false

theorem passAnswer_of_some {claimed : Bool} {s : State} {p : Seq}
    (h : seqAfterAnswer s.par.services.length claimed s.seq = some p) : passAnswer claimed s = .next (atPhase p s) := by
  simp only [passAnswer, h]

/-- Where the sequencer goes from a sub-phase of handlers (41_service_pipeline.md R133, R134, R136). -/
theorem passAnswer_of_raw {s : State} {mcount i : Nat} (h : s.seq = .p4Drain mcount .raw i) (claimed : Bool) :
    passAnswer claimed s = .next (atPhase (if claimed || serviceCount s ≤ i + 1 then .p4Drain mcount .activity 0
      else .p4Drain mcount .raw (i + 1)) s) :=
  passAnswer_of_some (by rw [h]; rfl)

theorem passAnswer_of_dec {s : State} {mcount i : Nat} (h : s.seq = .p4Drain mcount .dec i) (claimed : Bool) :
    passAnswer claimed s = .next (atPhase (if claimed || serviceCount s ≤ i + 1 then .p4Drain mcount .fh 0
      else .p4Drain mcount .dec (i + 1)) s) :=
  passAnswer_of_some (by rw [h]; rfl)

/-- In a pass a handler's answer moves the sequencer, to a sub-phase and an index that the answer and the place in the pass
tell. -/
theorem passAnswer_of_pass {sub : Sub} (hsub : isPass sub = true) (claimed : Bool) (services i : Nat) :
    ∃ sub' i', ∀ mcount (s : State), serviceCount s = services →
      passAnswer claimed (atPhase (.p4Drain mcount sub i) s) = .next (atPhase (.p4Drain mcount sub' i') s) := by
  cases sub with
  | fh | activity => cases hsub
  | raw =>
    by_cases hend : (claimed || services ≤ i + 1) = true
    · refine ⟨.activity, 0, fun mcount s hs => ?_⟩
      exact (passAnswer_of_raw rfl claimed).trans (by rw [if_pos (hs ▸ hend)]; rfl)
    · refine ⟨.raw, i + 1, fun mcount s hs => ?_⟩
      exact (passAnswer_of_raw rfl claimed).trans (by rw [if_neg (hs ▸ hend)]; rfl)
  | dec =>
    by_cases hend : (claimed || services ≤ i + 1) = true
    · refine ⟨.fh, 0, fun mcount s hs => ?_⟩
      exact (passAnswer_of_dec rfl claimed).trans (by rw [if_pos (hs ▸ hend)]; rfl)
    · refine ⟨.dec, i + 1, fun mcount s hs => ?_⟩
      exact (passAnswer_of_dec rfl claimed).trans (by rw [if_neg (hs ▸ hend)]; rfl)

theorem passAnswer_completes {sub : Sub} (hsub : isPass sub = true) (claimed : Bool) (mcount i : Nat) (s : State) :
    ∃ p, passAnswer claimed (atPhase (.p4Drain mcount sub i) s) = .next (atPhase p s) := by
  obtain ⟨sub', i', h⟩ := passAnswer_of_pass hsub claimed (serviceCount s) i
  exact ⟨_, h mcount s rfl⟩

/-- The events of a pass whose handlers answer like this, from index `i` on. -/
def passEvents (call : Nat → Event) : Nat → List Bool → List Event
  | _, [] => []
  | i, true :: _ => [call i, .handlerAnswer true]
  | i, false :: rest => call i :: .handlerAnswer false :: passEvents call (i + 1) rest

theorem passEvents_eq (call : Nat → Event) (i : Nat) (answers : List Bool) :
    passEvents call i answers = (List.range (invokedCount answers)).flatMap fun j =>
      [call (i + j), .handlerAnswer (answers.getD j false)] := by
  induction answers generalizing i with
  | nil => rfl
  | cons c answers ih =>
    cases c with
    | true => rfl
    | false =>
      simp only [passEvents, invokedCount, ih, List.range_succ_eq_map, List.flatMap_cons, List.flatMap_map]
      simp [Nat.add_assoc, Nat.add_comm 1]

theorem invokeHandler_of_done {s : State} {c : Bool} {rest : List Behaviour} (h : s.env.behaviours = .done c :: rest) :
    invokeHandler s = .next (c, { s with
      env := { s.env with behaviours := rest }, trace := s.trace ++ [.handlerAnswer c] }) := by
  rw [invokeHandler, invoke_of_done h]
  rfl

/-- A pass whose handlers answer at once invokes those up to the first that claims, which is how many behaviours it draws. -/
theorem passFrom_of_answers {sub : Sub} (hsub : isPass sub = true) {call : Nat → State → Event}
    (hcall : ∀ j s t, SameFrame s t → call j t = call j s) (mcount : Nat) {answers : List Bool} {rest : List Behaviour}
    {i : Nat} {s : State} (h : s.env.behaviours = answersAtOnce (answers.take (invokedCount answers)) ++ rest) :
    ∃ p, passFrom mcount sub call answers.length i s = .next { s with
      seq := p, env := { s.env with behaviours := rest }
      trace := s.trace ++ passEvents (fun j => call j s) i answers } := by
  induction answers generalizing i s with
  | nil =>
    have hrest : s.env.behaviours = rest := h
    subst hrest
    exact ⟨s.seq, by simp [passFrom, passEvents]⟩
  | cons c answers ih =>
    cases c with
    | true =>
      obtain ⟨p, hp⟩ := passAnswer_completes hsub true mcount i { s with
        seq := .p4Drain mcount sub i, trace := s.trace ++ [call i s] ++ [.handlerAnswer true]
        env := { s.env with behaviours := rest } }
      refine ⟨p, ?_⟩
      rw [List.length_cons, passFrom,
        invokeHandler_of_done (s := emit (call i s) (atPhase (.p4Drain mcount sub i) s)) h, andThen_next]
      exact (congrArg (andThen · _) hp).trans (by simp [passEvents, atPhase])
    | false =>
      obtain ⟨p, hp⟩ := passAnswer_completes hsub false mcount i { s with
        seq := .p4Drain mcount sub i, trace := s.trace ++ [call i s] ++ [.handlerAnswer false]
        env := { s.env with behaviours := answersAtOnce (answers.take (invokedCount answers)) ++ rest } }
      obtain ⟨p', hp'⟩ := ih (i := i + 1) (s := atPhase p { s with
        seq := .p4Drain mcount sub i, trace := s.trace ++ [call i s] ++ [.handlerAnswer false]
        env := { s.env with behaviours := answersAtOnce (answers.take (invokedCount answers)) ++ rest } }) rfl
      refine ⟨p', ?_⟩
      rw [List.length_cons, passFrom,
        invokeHandler_of_done (s := emit (call i s) (atPhase (.p4Drain mcount sub i) s)) h, andThen_next]
      refine ((congrArg (andThen · _) hp).trans hp').trans ?_
      have hsame (j : Nat) : call j (atPhase p { s with
          seq := .p4Drain mcount sub i, trace := s.trace ++ [call i s] ++ [.handlerAnswer false]
          env := { s.env with behaviours := answersAtOnce (answers.take (invokedCount answers)) ++ rest } }) = call j s :=
        hcall j _ _ ⟨rfl, rfl, rfl, rfl⟩
      simp only [hsame, passEvents]
      simp [atPhase]

/-- The behaviours a pass draws, out of one for every service. -/
theorem answersAtOnce_split (answers : List Bool) (more : List Behaviour) :
    answersAtOnce answers ++ more = answersAtOnce (answers.take (invokedCount answers)) ++
      (answersAtOnce (answers.drop (invokedCount answers)) ++ more) := by
  rw [answersAtOnce, answersAtOnce, answersAtOnce, ← List.append_assoc, ← List.map_append, List.take_append_drop]

/-! ### What a pass records, whatever the handlers do -/

/-- Events of a kind no party's request and no answer makes; the held frame stays. -/
theorem keptByPasses_unseen {kind : Event → Bool} (hmode : ∀ e, modeEvent e = true → kind e = false)
    (hanswer : ∀ c, kind (.handlerAnswer c) = false) :
    KeptByPasses fun s t => SameFrame s t ∧ GrowsBy (fun e => !kind e) s t where
  refl s := ⟨.refl s, .of_trace_eq rfl⟩
  trans := fun _ _ _ ⟨hframe, hgrows⟩ ⟨hframe', hgrows'⟩ => ⟨hframe.trans hframe', hgrows.trans hgrows'⟩
  agents _ _ _ := ⟨⟨rfl, rfl, rfl, rfl⟩, .of_trace_eq rfl⟩
  record e s he := ⟨⟨rfl, rfl, rfl, rfl⟩, growsBy_emit s (by simp [hmode e he])⟩
  answer _ _ := ⟨⟨rfl, rfl, rfl, rfl⟩, .of_trace_eq rfl⟩
  config _ _ := ⟨⟨rfl, rfl, rfl, rfl⟩, .of_trace_eq rfl⟩
  flag _ _ := ⟨⟨rfl, rfl, rfl, rfl⟩, .of_trace_eq rfl⟩
  timer _ _ _ := ⟨⟨rfl, rfl, rfl, rfl⟩, .of_trace_eq rfl⟩
  put _ _ := ⟨⟨rfl, rfl, rfl, rfl⟩, .of_trace_eq rfl⟩
  get _ := ⟨⟨rfl, rfl, rfl, rfl⟩, .of_trace_eq rfl⟩
  clear _ := ⟨⟨rfl, rfl, rfl, rfl⟩, .of_trace_eq rfl⟩
  drawn _ := ⟨⟨rfl, rfl, rfl, rfl⟩, .of_trace_eq rfl⟩
  answered c s := ⟨⟨rfl, rfl, rfl, rfl⟩, growsBy_emit s (by simp [hanswer c])⟩
  phase _ _ := ⟨⟨rfl, rfl, rfl, rfl⟩, .of_trace_eq rfl⟩

/-- Of a kind of event that only the calls of a pass are, the pass records the calls in registration order. -/
theorem passFrom_calls {kind : Event → Bool} (hmode : ∀ e, modeEvent e = true → kind e = false)
    (hanswer : ∀ c, kind (.handlerAnswer c) = false) {call : Nat → State → Event}
    (hkind : ∀ j s, kind (call j s) = true) (hcall : ∀ j s t, SameFrame s t → call j t = call j s)
    {mcount n i : Nat} {sub : Sub} {s t : State} (h : passFrom mcount sub call n i s = .next t) :
    ∃ es k, t.trace = s.trace ++ es ∧ k ≤ n ∧ es.filter kind = (List.range k).map fun j => call (i + j) s := by
  have hkept := keptByPasses_unseen hmode hanswer
  induction n generalizing i s with
  | zero => cases h; exact ⟨[], 0, by simp, Nat.le_refl 0, rfl⟩
  | succ n ih =>
    obtain ⟨r, hr, h⟩ := andThen_eq_next.mp h
    obtain ⟨u, hu, h⟩ := andThen_eq_next.mp h
    obtain ⟨hframe, es, hes, hunseen⟩ := hkept.handled hr hu
    have hfiltered : es.filter kind = [] := by
      simpa [List.filter_eq_nil_iff] using hunseen
    have hnow : u.trace = s.trace ++ (call i s :: es) := hes.trans (by simp)
    split at h
    · cases h
      exact ⟨call i s :: es, 1, hnow, by omega, by simp [hkind, hfiltered]⟩
    · obtain ⟨fs, k, hfs, hk, hcalls⟩ := ih h
      refine ⟨call i s :: es ++ fs, k + 1, by rw [hfs, hnow, List.append_assoc], by omega, ?_⟩
      have hsame (j : Nat) : call j u = call j s :=
        hcall j s u ⟨hframe.frm_eq, hframe.msg_eq, hframe.held_eq, hframe.lives_eq⟩
      simp only [hsame] at hcalls
      rw [List.filter_append, List.filter_cons, if_pos (hkind i s), hfiltered, hcalls, List.range_succ_eq_map]
      simp [Nat.add_assoc, Nat.add_comm 1]

/-! ### The instructions of the pipeline -/

theorem exec_housekeep (a : Byte) (s : State) : exec (.housekeep a) s = quietly (keepingPhase (housekeep a)) s := rfl

theorem exec_svcInit (s : State) : exec .svcInit s = quietly initServices s := rfl

theorem exec_fhCall (s : State) : exec .fhCall s = quietly (keepingPhase callbackStep) s := rfl

theorem exec_rawdisp (s : State) : exec .rawdisp s = quietly (keepingPhase rawPass) s := rfl

theorem exec_decdisp (s : State) : exec .decdisp s = quietly (keepingPhase decodedPass) s := rfl

/-- A step that answers a next state recorded what its operation did. -/
theorem quietly_keepingPhase_trace {op : State → Result} {s t : State} (h : quietly (keepingPhase op) s = .next t) :
    ∃ u, op s = .next u ∧ t.trace = u.trace := by
  obtain ⟨v, hv, rfl⟩ := quietly_eq_next.mp h
  obtain ⟨u, hu, rfl⟩ := keepingPhase_eq_next.mp hv
  exact ⟨u, hu, rfl⟩

theorem rawPass_of_answers {s : State} {raw : List Bool} {rest : List Behaviour} (hlen : raw.length = serviceCount s)
    (h : s.env.behaviours = answersAtOnce (raw.take (invokedCount raw)) ++ rest) :
    ∃ p, rawPass s = .next { s with
      seq := p, env := { s.env with behaviours := rest }
      trace := s.trace ++ (List.range (invokedCount raw)).flatMap fun j =>
        [rawCall j s, .handlerAnswer (raw.getD j false)] } := by
  have hpass := passFrom_of_answers (sub := .raw) rfl (fun j _ _ hf => hf.rawCall_eq j) (drainedCount s) (i := 0) h
  simpa only [rawPass_eq, ← hlen, passEvents_eq, Nat.zero_add] using hpass

theorem decodedPass_of_answers {s : State} {dec : List Bool} {rest : List Behaviour} (hlen : dec.length = serviceCount s)
    (hopc : hasOpcode (readFrm s) = true)
    (h : s.env.behaviours = answersAtOnce (dec.take (invokedCount dec)) ++ rest) :
    ∃ p, decodedPass s = .next { s with
      seq := p, env := { s.env with behaviours := rest }
      trace := s.trace ++ (List.range (invokedCount dec)).flatMap fun j =>
        [decodedCall j s, .handlerAnswer (dec.getD j false)] } := by
  have hpass := passFrom_of_answers (sub := .dec) rfl (fun j _ _ hf => hf.decodedCall_eq j) (drainedCount s) (i := 0) h
  simpa only [decodedPass_eq, if_pos hopc, ← hlen, passEvents_eq, Nat.zero_add] using hpass

theorem decodedPass_of_no_opcode {s : State} (h : hasOpcode (readFrm s) = false) : decodedPass s = .next s := by
  simp [decodedPass_eq, h]

theorem hasOpcode_iff (f : Frame) : hasOpcode f = true ↔ f.ext = false ∧ f.len.toNat ≠ 0 := by
  simp [hasOpcode]

theorem hasOpcode_eq_false {f : Frame} (h : f.ext = true ∨ f.len.toNat = 0) : hasOpcode f = false := by
  rw [Bool.eq_false_iff, ne_eq, hasOpcode_iff]
  rintro ⟨hext, hlen⟩
  exact h.elim (by simp [hext]) hlen

/-! ### The callback (41_service_pipeline.md R132) -/

theorem callbackStep_of_passes {s : State} (hpresent : s.par.callbackPresent = true)
    (hpass : whitelistPasses s.par (readFrm s) (readMsg s) = true) :
    callbackStep s = invokeHook (emit (.callback (readMsg s)) (atPhase (.p4Drain (drainedCount s) .fh 0) s)) :=
  if_pos (by simp [hpresent, hpass])

theorem callbackStep_of_absent {s : State} (h : s.par.callbackPresent = false) : callbackStep s = .next s :=
  if_neg (by simp [h])

theorem callbackStep_of_blocked {s : State} (h : whitelistPasses s.par (readFrm s) (readMsg s) = false) :
    callbackStep s = .next s :=
  if_neg (by simp [h])

theorem whitelistPasses_iff (p : Params) (f : Frame) (m : Message) :
    whitelistPasses p f m = true ↔
      p.whitelist = [] ∨ f.ext = false ∧ f.len.toNat > 0 ∧ m.data.d0 ∈ p.whitelist := by
  simp [whitelistPasses, hasOpcode, opcodeOf, Nat.pos_iff_ne_zero, and_assoc]

/-! ### Construction -/

theorem step_of_powerOn {s : State} {p : Params} {nn : NodeNumber} {canid mode : Byte} {rest : List Input}
    (h : s.inbox = .powerOn p nn canid mode :: rest) :
    step s = construct p nn canid mode { s with inbox := rest } := by
  simp only [step, h]

theorem setWidth_canid (v : BitVec 7) : BitVec.setWidth 7 (BitVec.setWidth 8 v) = v :=
  BitVec.setWidth_setWidth_of_le v (by decide)

theorem setWidth_mode (v : BitVec 1) : BitVec.setWidth 1 (BitVec.setWidth 8 v) = v :=
  BitVec.setWidth_setWidth_of_le v (by decide)

theorem canid_le (v : BitVec 7) : (BitVec.setWidth 8 v).toNat ≤ 127 := by
  rw [BitVec.toNat_setWidth_of_le (by decide)]
  exact Nat.le_of_lt_succ v.isLt

theorem mode_le (v : BitVec 1) : (BitVec.setWidth 8 v).toNat ≤ 1 := by
  rw [BitVec.toNat_setWidth_of_le (by decide)]
  exact Nat.le_of_lt_succ v.isLt

/-- What the Configuration store holds is always in range, so RESET only asks for legal parameters. -/
theorem legalConstruction_of_stored {p : Params} (c : Cfg) (h : legalConstruction p 0x00#8 0x00#8 = true) :
    legalConstruction p (BitVec.setWidth 8 c.canid) (BitVec.setWidth 8 c.mode) = true := by
  rw [legalConstruction_iff] at h ⊢
  obtain ⟨hlo, hhi, hservices, hlist, htimeout, hcounter, -, -⟩ := h
  exact ⟨hlo, hhi, hservices, hlist, htimeout, hcounter, canid_le c.canid, mode_le c.mode⟩

theorem exec_reset_of_legal {s : State} (h : legalConstruction s.par 0x00#8 0x00#8 = true) :
    exec .reset s = quietly initServices { State.reset with
      par := s.par, lives := s.lives + 1, env := s.env, trace := s.trace, inbox := s.inbox, cfg := s.cfg } := by
  show quietly _ s = _
  rw [quietly, construct_of_legal s.cfg.nn s (legalConstruction_of_stored s.cfg h), constructed, setWidth_canid,
    setWidth_mode]
  rfl

/-! ### The obligations -/

/-- Settles O33: the two passes of hooks, whose sequencer is put back. -/
theorem hooksAndInitializersRunInOrder : Obligations.HooksAndInitializersRunInOrder := by
  intro s a answers more hlen h
  obtain ⟨p, hp⟩ := housekeep_of_answers a hlen h
  exact ⟨(exec_housekeep a s).trans (quietly_keepingPhase_of_next hp),
    (exec_svcInit s).trans (quietly_of_next (initServices_of_answers hlen h))⟩

/-- Settles O34: the raw pass with immediate answers, and the calls of any raw pass. -/
theorem rawPassStopsAtTheFirstClaim : Obligations.RawPassStopsAtTheFirstClaim := by
  refine ⟨fun s answers more hheld hlen h => ?_, fun s t hheld h => ?_⟩
  · obtain ⟨p, hp⟩ := rawPass_of_answers hlen (h.trans (answersAtOnce_split answers more))
    simp only [rawCall_of_held hheld] at hp
    exact (exec_rawdisp s).trans (quietly_keepingPhase_of_next hp)
  · obtain ⟨u, hu, htrace⟩ := quietly_keepingPhase_trace h
    rw [rawPass_eq] at hu
    obtain ⟨es, k, hes, hk, hcalls⟩ := passFrom_calls (kind := isRawCall)
      (fun e => by cases e <;> simp [modeEvent, isRawCall])
      (fun _ => rfl) (fun _ _ => rfl) (fun j _ _ hf => hf.rawCall_eq j) hu
    simp only [rawCall_of_held hheld, Nat.zero_add] at hcalls
    exact ⟨es, k, htrace.trans hes, hk, hcalls⟩

/-- Settles O35: as O34 where the frame has an opcode, and no pass at all where it has none. -/
theorem decodedPassStopsAtTheFirstClaim : Obligations.DecodedPassStopsAtTheFirstClaim := by
  refine ⟨fun s answers more hheld hlen h hext hne => ?_, fun s t hheld h => ?_, fun s hheld hno => ?_⟩
  · have hopc : hasOpcode (readFrm s) = true := by
      rw [readFrm_of_held hheld]
      exact (hasOpcode_iff s.frm).mpr ⟨hext, hne⟩
    obtain ⟨p, hp⟩ := decodedPass_of_answers hlen hopc (h.trans (answersAtOnce_split answers more))
    simp only [decodedCall_of_held hheld] at hp
    exact (exec_decdisp s).trans (quietly_keepingPhase_of_next hp)
  · obtain ⟨u, hu, htrace⟩ := quietly_keepingPhase_trace h
    rw [decodedPass_eq] at hu
    split at hu
    · obtain ⟨es, k, hes, hk, hcalls⟩ := passFrom_calls (kind := isDecodedCall)
        (fun e => by cases e <;> simp [modeEvent, isDecodedCall]) (fun _ => rfl) (fun _ _ => rfl)
        (fun j _ _ hf => hf.decodedCall_eq j) hu
      simp only [decodedCall_of_held hheld, Nat.zero_add] at hcalls
      exact ⟨es, k, htrace.trans hes, hk, hcalls⟩
    · cases hu
      exact ⟨[], 0, by simp [htrace], Nat.zero_le _, rfl⟩
  · have hopc : hasOpcode (readFrm s) = false := by
      rw [readFrm_of_held hheld]
      exact hasOpcode_eq_false hno
    exact (exec_decdisp s).trans (quietly_keepingPhase_of_next (decodedPass_of_no_opcode hopc))

/-- Settles O36: the filter is `whitelistPasses`, read on the held frame. -/
theorem callbackIsFilteredByTheWhitelist : Obligations.CallbackIsFilteredByTheWhitelist := by
  intro s
  refine ⟨fun habsent => ?absent, fun claimed rest hpresent hheld hdone =>
    ⟨fun hpass => ?passed, fun hlist hno => ?blocked⟩⟩
  case absent => exact (exec_fhCall s).trans (quietly_keepingPhase_of_next (callbackStep_of_absent habsent))
  case passed =>
    have hpasses : whitelistPasses s.par (readFrm s) (readMsg s) = true := by
      rw [readFrm_of_held hheld, readMsg_of_held hheld]
      exact (whitelistPasses_iff s.par s.frm s.msg).mpr hpass
    have hcalled := (callbackStep_of_passes hpresent hpasses).trans
      (invokeHook_of_done (s := emit (.callback (readMsg s)) (atPhase (.p4Drain (drainedCount s) .fh 0) s)) hdone)
    rw [readMsg_of_held hheld] at hcalled
    exact (exec_fhCall s).trans (quietly_keepingPhase_of_next hcalled)
  case blocked =>
    have hblocked : whitelistPasses s.par (readFrm s) (readMsg s) = false := by
      rw [readFrm_of_held hheld, readMsg_of_held hheld, Bool.eq_false_iff, ne_eq, whitelistPasses_iff]
      rintro (hempty | ⟨hext, hlen, hopc⟩)
      · exact hlist hempty
      · rcases hno with hno | hno | hno
        · simp [hext] at hno
        · omega
        · exact hno hopc
    exact (exec_fhCall s).trans (quietly_keepingPhase_of_next (callbackStep_of_blocked hblocked))

/-- Settles O52: in a pass `passAnswer` moves the sequencer, and in IDLE no handler is invoked. -/
theorem answersMoveThePass : Obligations.AnswersMoveThePass := by
  intro s mcount j
  have hplace (ended next : Seq) : (if false || serviceCount s ≤ j + 1 then ended else next) =
      if j + 1 < serviceCount s then next else ended := by
    by_cases hmore : j + 1 < serviceCount s
    · simp [hmore]
    · simp [hmore, Nat.not_lt.mp hmore]
  refine ⟨fun hseq => ⟨passAnswer_of_raw (s := emit (.handlerAnswer true) s) hseq true, ?_⟩,
    fun hseq => ⟨passAnswer_of_dec (s := emit (.handlerAnswer true) s) hseq true, ?_⟩,
    fun hidle => ⟨exec_ansClaimed_of_idle hidle, exec_ansNotClaimed_of_idle hidle⟩⟩
  · rw [← hplace]
    exact passAnswer_of_raw (s := emit (.handlerAnswer false) s) hseq false
  · rw [← hplace]
    exact passAnswer_of_dec (s := emit (.handlerAnswer false) s) hseq false

/-- Settles O11: the construction with the machine's own parameters, whose initializers return at once. -/
theorem resetRebuildsTheBlock : Obligations.ResetRebuildsTheBlock := by
  intro s answers more hlegal hlen h
  rw [exec_reset_of_legal hlegal]
  exact quietly_of_next (initServices_of_answers (s := { State.reset with
    par := s.par, lives := s.lives + 1, env := s.env, trace := s.trace, inbox := s.inbox, cfg := s.cfg }) hlen h)

/-- Settles O9: the range check, then the initializers over the block as constructed. -/
theorem constructionChecksItsParameters : Obligations.ConstructionChecksItsParameters := by
  intro s p nn canid mode rest answers more hin
  refine ⟨fun hout => ?refused, fun hlegal hlen h => ?built⟩
  case refused =>
    have hillegal : legalConstruction p canid mode = false := by
      rw [Bool.eq_false_iff, ne_eq, legalConstruction_iff]
      omega
    exact (step_of_powerOn hin).trans (construct_of_illegal nn _ hillegal)
  case built =>
    have ⟨_, _, _, _, _, _, hcanid, hmode⟩ := hlegal
    have hconstructed := construct_of_legal nn { s with inbox := rest } ((legalConstruction_iff p canid mode).mpr hlegal)
    have hinit := initServices_of_answers (s := constructed p nn canid mode { s with inbox := rest }) hlen h
    exact ⟨_, (step_of_powerOn hin).trans (hconstructed.trans hinit), rfl, rfl, rfl, rfl, rfl, rfl, rfl, rfl,
      canid_toNat_of_le hcanid, mode_toNat_of_le hmode, rfl, rfl, rfl⟩

end Sys2Proof.Machine
end

section
/-!
PROOF. What an invoked party may do (70_reset_and_hazards.md R252), request by request, and the poll of the UI
(44_dispatcher_cycle.md R176).
-/
namespace Sys2Proof.Machine

/-! ### A request of an invoked party -/

theorem runBehaviour_request (bytes : List Byte) (nested rest : Behaviour) (s : State) :
    runBehaviour (.request bytes nested rest) s =
      andThen (serviceRequest (fun t => andThen (runBehaviour nested t) fun r => .next r.2) bytes s)
        (runBehaviour rest) := rfl

theorem serviceRequest_of_admitted {enumerate : State → Result} {bytes : List Byte} {i : Instr} (s : State)
    (hi : decodeRequest bytes = .ok i) (hmay : admitService i = none) :
    serviceRequest enumerate bytes s = serviceOperation enumerate i s := by
  simp only [serviceRequest, hi, hmay]

theorem serviceRequest_of_turned_away {enumerate : State → Result} {bytes : List Byte} {i : Instr} {e : Refusal}
    (s : State) (hi : decodeRequest bytes = .ok i) (haway : admitService i = some e) :
    serviceRequest enumerate bytes s = .refused e := by
  simp only [serviceRequest, hi, haway]

theorem serviceRequest_of_malformed {enumerate : State → Result} {bytes : List Byte} {e : DecodeError} (s : State)
    (he : decodeRequest bytes = .error e) : serviceRequest enumerate bytes s = .refused (requestRefusal bytes e) := by
  simp only [serviceRequest, he]

theorem runBehaviour_of_turned_away {bytes : List Byte} {i : Instr} {e : Refusal} (nested rest : Behaviour) (s : State)
    (hi : decodeRequest bytes = .ok i) (haway : admitService i = some e) :
    runBehaviour (.request bytes nested rest) s = .refused e := by
  rw [runBehaviour_request, serviceRequest_of_turned_away s hi haway, andThen_refused]

/-! ### MCONFIRM by an invoked party -/

/-- The state in which the party invoked next does this. -/
def willDo (b : Behaviour) (s : State) : State :=
  { s with env := { s.env with behaviours := b :: s.env.behaviours } }

/-- Without a bus-address service it does not matter what its entry point would do. -/
theorem confirm_congr_of_none (enumerate enumerate' : State → Result) {s : State}
    (h : findService s.par.svcIdCan s.par.services = none) : confirm enumerate s = confirm enumerate' s := by
  unfold confirm
  cases hshown : indicateMode .flim (storeCfg (.mode 0x01#8) { s with changing := false }) with
  | next t =>
    have hnone : findService t.par.svcIdCan t.par.services = none := by
      rw [indicateMode_eq_next hshown]
      exact h
    rw [andThen_next, andThen_next, handOff_of_none enumerate hnone, handOff_of_none enumerate' hnone]
  | fault | refused => rfl

/-- An indication does not ask what the parties will do. -/
theorem indicateMode_willDo (v : Indication) (b : Behaviour) (s : State) :
    indicateMode v (willDo b s) = andThen (indicateMode v s) fun t => .next (willDo b t) := by
  cases hui : s.par.uiPresent with
  | false => simp [indicateMode, willDo, hui]
  | true =>
    match hstall : s.env.stallsAfter with
    | none => simp [indicateMode, willDo, hui, reach, hstall, emit]
    | some 0 => simp [indicateMode, willDo, hui, reach, hstall]
    | some (n + 1) => simp [indicateMode, willDo, hui, reach, hstall, emit]

theorem invokeHook_willDo (b : Behaviour) (s : State) :
    invokeHook (willDo b s) = andThen (runBehaviour b s) fun r => .next r.2 := by
  rw [invokeHook, invoke, drawBehaviour_of_cons (show (willDo b s).env.behaviours = b :: s.env.behaviours from rfl)]
  rfl

/-- With a bus-address service, its entry point does in the hand-off what the script says next. -/
theorem confirm_willDo {b : Behaviour} {s : State} {i : Nat}
    (h : findService s.par.svcIdCan s.par.services = some i) :
    confirm invokeHook (willDo b s) = confirm (fun t => andThen (runBehaviour b t) fun r => .next r.2) s := by
  have hshown := indicateMode_willDo .flim b (storeCfg (.mode 0x01#8) { s with changing := false })
  unfold confirm
  rw [show storeCfg (.mode 0x01#8) { willDo b s with changing := false } =
    willDo b (storeCfg (.mode 0x01#8) { s with changing := false }) from rfl, hshown]
  cases hu : indicateMode .flim (storeCfg (.mode 0x01#8) { s with changing := false }) with
  | next t =>
    have hsome : findService t.par.svcIdCan t.par.services = some i := by
      rw [indicateMode_eq_next hu]
      exact h
    simp only [andThen_next]
    rw [handOff_of_some _ hsome, handOff_of_some (s := willDo b t) _ hsome]
    exact invokeHook_willDo b (emit (.svcEnumerate i) t)
  | fault | refused => rfl

/-! ### The poll of the UI -/

theorem pollUi_of_absent {s : State} (h : s.par.uiPresent = false) : pollUi s = .next { s with act := 0x00#8 } :=
  if_neg (by simp [h])

theorem pollUi_of_answers {s : State} {a : Byte} {rest : List UiTurn} (hui : s.par.uiPresent = true)
    (hturn : s.env.turns = .answers a :: rest) :
    pollUi s = .next { s with
      act := a, env := { s.env with turns := rest }, trace := s.trace ++ [.uiRun, .uiRequestedAction a] } := by
  simp [pollUi, hui, drawTurn, hturn, emit]

theorem pollUi_of_hangs {s : State} {rest : List UiTurn} (hui : s.par.uiPresent = true)
    (hturn : s.env.turns = .hangs :: rest) : pollUi s = .fault .neverReturns := by
  simp [pollUi, hui, drawTurn, hturn]

theorem exec_pUi (s : State) : exec .pUi s = andThen (pollUi s) fun t => .next (answering (.byte t.act) t) := rfl

/-! ### The obligations -/

/-- Settles O38: a decoded request is admitted and executed, or turned away; the store's sets go through their range check,
and the other steps of a behaviour are what `runBehaviour` says. -/
theorem invokedPartiesAreHeldToTheList : Obligations.InvokedPartiesAreHeldToTheList := by
  intro s bytes nested rest
  refine ⟨fun i hi hlisted => ?listed, fun hi => ?confirm, fun n hi => ?process, fun i hi hinternal => ?internal,
    fun c operands e hbytes he => ?malformed, fun v => ?nn, fun v => ?canid, fun v => ?mode, fun v hv => ?badCanid,
    fun v hv => ?badMode, rfl, rfl, rfl, rfl, rfl⟩
  case listed =>
    rw [runBehaviour_request]
    obtain ⟨_, rfl⟩ | rfl | rfl | rfl | rfl | rfl | rfl | rfl | rfl | rfl | rfl | rfl | rfl | rfl | rfl | ⟨_, rfl⟩ |
      ⟨_, rfl⟩ | rfl | ⟨_, rfl⟩ | ⟨_, _, _, rfl⟩ := hlisted <;> rw [serviceRequest_of_admitted s hi rfl] <;> rfl
  case confirm =>
    rw [runBehaviour_request, serviceRequest_of_admitted s hi rfl, exec_mconfirm]
    refine congrArg (andThen · (runBehaviour rest)) ?_
    show quietly (confirm _) s = _
    split
    · exact quietly_congr (confirm_congr_of_none _ invokeHook ‹_›)
    · obtain ⟨i, hsome⟩ := Option.ne_none_iff_exists'.mp ‹_›
      have hdone := confirm_willDo (b := nested) hsome
      exact (congrArg (andThen · fun t => .next (answering .nothing t)) hdone).symm
  case process => exact runBehaviour_of_turned_away nested rest s hi rfl
  case internal =>
    obtain rfl | rfl | ⟨_, rfl⟩ | ⟨_, rfl⟩ | rfl | rfl | rfl | rfl | rfl | rfl | ⟨_, rfl⟩ | ⟨_, rfl⟩ | rfl | rfl | rfl :=
      hinternal <;> exact runBehaviour_of_turned_away nested rest s hi rfl
  case malformed =>
    rw [runBehaviour_request, serviceRequest_of_malformed s he, andThen_refused, hbytes, requestRefusal_cons]
    cases e <;> rfl
  case nn => rfl
  case canid =>
    rw [runBehaviour, setCfg_of_legal (w := .canid (BitVec.setWidth 8 v)) s (decide_eq_true (canid_le v)),
      andThen_next, storeCfg, setWidth_canid]
    rfl
  case mode =>
    rw [runBehaviour, setCfg_of_legal (w := .mode (BitVec.setWidth 8 v)) s (decide_eq_true (mode_le v)),
      andThen_next, storeCfg, setWidth_mode]
    rfl
  case badCanid => rw [runBehaviour, setCfg_canid_of_gt s hv, andThen_refused]
  case badMode => rw [runBehaviour, setCfg_mode_of_gt s hv, andThen_refused]

/-- Settles O40: the three ways the poll goes. -/
theorem uiIsPolledOnce : Obligations.UiIsPolledOnce := by
  refine fun s => ⟨fun habsent => ?absent, fun a rest hui hturn => ?answers, fun rest hui hturn => ?hangs⟩
  case absent => rw [exec_pUi, pollUi_of_absent habsent]; rfl
  case answers => rw [exec_pUi, pollUi_of_answers hui hturn]; rfl
  case hangs => rw [exec_pUi, pollUi_of_hangs hui hturn]; rfl

end Sys2Proof.Machine
end

section
/-!
PROOF. Two runs side by side: a relation between states that agree in all that the operations read, and that every single
update keeps on both sides, is kept by every operation (`Mirror`). It is used where two states differ only in the
sequencer and the answer latch, in whether a transaction hangs, or in whether FRM and MSG are held.
-/
namespace Sys2Proof.Machine

/-! ### Outcomes side by side -/

/-- The second outcome is the first one's: the same refusal, or a next state related to its next state. Of a fault nothing
is said. -/
def Follows {α β : Type} (Q : α → β → Prop) (r : Host.Outcome α Fault Refusal) (r' : Host.Outcome β Fault Refusal) :
    Prop :=
  match r with
  | .next a => ∃ b, r' = .next b ∧ Q a b
  | .refused e => r' = .refused e
  | .fault _ => True

theorem Follows.next {α β : Type} {Q : α → β → Prop} {a : α} {b : β} (h : Q a b) : Follows Q (.next a) (.next b) :=
  ⟨b, rfl, h⟩

theorem Follows.refused {α β : Type} {Q : α → β → Prop} (e : Refusal) : Follows Q (.refused e) (.refused e) := rfl

theorem Follows.andThen {α β γ δ : Type} {Q : α → β → Prop} {Q' : γ → δ → Prop} {r : Host.Outcome α Fault Refusal}
    {r' : Host.Outcome β Fault Refusal} {k : α → Host.Outcome γ Fault Refusal} {k' : β → Host.Outcome δ Fault Refusal}
    (h : Follows Q r r') (hk : ∀ a b, Q a b → Follows Q' (k a) (k' b)) :
    Follows Q' (Machine.andThen r k) (Machine.andThen r' k') := by
  cases r with
  | next a =>
    obtain ⟨b, rfl, hab⟩ := h
    exact hk a b hab
  | refused e =>
    have hr' : r' = .refused e := h
    subst hr'
    exact .refused e
  | fault f => trivial

/-- A value beside the state, the same on both sides. -/
def Beside {α : Type} (S : State → State → Prop) (p p' : α × State) : Prop := p'.1 = p.1 ∧ S p.2 p'.2

/-! ### Draws do not ask whether a transaction hangs -/

theorem drawSend_stalls (e : Env) (x : Option Nat) :
    drawSend { e with stallsAfter := x } = ((drawSend e).1, { (drawSend e).2 with stallsAfter := x }) := by
  cases h : e.sends <;> simp [drawSend, h]

theorem drawTick_stalls (e : Env) (x : Option Nat) :
    drawTick { e with stallsAfter := x } = ((drawTick e).1, { (drawTick e).2 with stallsAfter := x }) := by
  cases h : e.ticks <;> simp [drawTick, h]

theorem drawTurn_stalls (e : Env) (x : Option Nat) :
    drawTurn { e with stallsAfter := x } = ((drawTurn e).1, { (drawTurn e).2 with stallsAfter := x }) := by
  cases h : e.turns <;> simp [drawTurn, h]

theorem drawBehaviour_stalls (e : Env) (x : Option Nat) :
    drawBehaviour { e with stallsAfter := x } = ((drawBehaviour e).1, { (drawBehaviour e).2 with stallsAfter := x }) := by
  cases h : e.behaviours <;> simp [drawBehaviour, h]

theorem drawArrivals_stalls (e : Env) (x : Option Nat) :
    drawArrivals { e with stallsAfter := x } = ((drawArrivals e).1, { (drawArrivals e).2 with stallsAfter := x }) := by
  cases h : e.arrivals <;> simp [drawArrivals, h]

/-! ### States side by side -/

/-- The two states agree in all that an operation reads, but for the sequencer and whether a transaction hangs. -/
structure Agree (s s' : State) : Prop where
  par_eq : s'.par = s.par
  queue_eq : s'.queue = s.queue
  lives_eq : s'.lives = s.lives
  act_eq : s'.act = s.act
  changing_eq : s'.changing = s.changing
  started_eq : s'.started = s.started
  cfg_eq : s'.cfg = s.cfg
  frm_eq : readFrm s' = readFrm s
  msg_eq : readMsg s' = readMsg s
  env_eq : s'.env = { s.env with stallsAfter := s'.env.stallsAfter }

/-- The relation is one of agreeing states and each single update keeps it; `C` relates the counts of drained frames that
the sequencers may carry. -/
structure Mirror (S : State → State → Prop) (C : Nat → Nat → Prop) : Prop where
  agree : ∀ {s s'}, S s s' → Agree s s'
  reach : ∀ {s s'}, S s s' → Follows S (reach s) (reach s')
  agents : ∀ {s s'} e, S s s' → e.stallsAfter = s.env.stallsAfter →
    S { s with env := e } { s' with env := { e with stallsAfter := s'.env.stallsAfter } }
  record : ∀ {s s'} e, S s s' → S (emit e s) (emit e s')
  answer : ∀ {s s'} a, S s s' → S (answering a s) (answering a s')
  config : ∀ {s s'} c, S s s' → S { s with cfg := c } { s' with cfg := c }
  flag : ∀ {s s'} b, S s s' → S { s with changing := b } { s' with changing := b }
  timer : ∀ {s s'} n, S s s' → S { s with started := n } { s' with started := n }
  latch : ∀ {s s'} a, S s s' → S { s with act := a } { s' with act := a }
  setQueue : ∀ {s s'} q, S s s' → S { s with queue := q } { s' with queue := q }
  phase : ∀ {s s'} p, S s s' → S (atPhase p s) (atPhase p s')
  drainPhase : ∀ {s s' c c'} sub i, C c c' → S s s' → S (atPhase (.p4Drain c sub i) s) (atPhase (.p4Drain c' sub i) s')
  restore : ∀ {s s' u u'}, S s s' → S u u' → S (atPhase s.seq u) (atPhase s'.seq u')
  count : ∀ {s s'}, S s s' → C (drainedCount s) (drainedCount s')
  count_zero : C 0 0
  count_succ : ∀ {c c'}, C c c' → C (c + 1) (c' + 1)

namespace Mirror

variable {S : State → State → Prop} {C : Nat → Nat → Prop}

/-! ### Sending and the mode machine -/

theorem quietly (m : Mirror S C) {op op' : State → Result} {s s' : State} (h : Follows S (op s) (op' s')) :
    Follows S (quietly op s) (quietly op' s') :=
  h.andThen fun _ _ ht => .next (m.answer _ ht)

theorem keepingPhase (m : Mirror S C) {op op' : State → Result} {s s' : State} (hs : S s s')
    (h : Follows S (op s) (op' s')) : Follows S (keepingPhase op s) (keepingPhase op' s') :=
  h.andThen fun _ _ ht => .next (m.restore hs ht)

theorem transportSend (m : Mirror S C) (msg : Message) {s s' : State} (h : S s s') :
    Follows (Beside S) (transportSend msg s) (transportSend msg s') := by
  refine (m.reach h).andThen fun t t' ht => .next ?_
  have hdraw := (congrArg drawSend (m.agree ht).env_eq).trans (drawSend_stalls t.env t'.env.stallsAfter)
  rw [hdraw]
  exact ⟨rfl, m.record _ (m.agents _ ht (by rw [drawSend_env]))⟩

theorem answeringSend (m : Mirror S C) {msg msg' : Message} {s s' : State} (hmsg : msg' = msg) (h : S s s') :
    Follows S (answeringSend (Machine.transportSend msg s)) (answeringSend (Machine.transportSend msg' s')) := by
  subst hmsg
  refine (m.transportSend msg' h).andThen fun r r' ⟨hok, hr⟩ => .next ?_
  rw [hok]
  exact m.answer _ hr

theorem indicateMode (m : Mirror S C) (v : Indication) {s s' : State} (h : S s s') :
    Follows S (indicateMode v s) (indicateMode v s') := by
  unfold Machine.indicateMode
  rw [(m.agree h).par_eq]
  split
  · exact (m.reach h).andThen fun _ _ ht => .next (m.record _ ht)
  · exact .next h

theorem indicateActivity (m : Mirror S C) {s s' : State} (h : S s s') :
    Follows S (indicateActivity s) (indicateActivity s') := by
  unfold Machine.indicateActivity
  rw [(m.agree h).par_eq]
  split
  · exact (m.reach h).andThen fun _ _ ht => .next (m.record _ ht)
  · exact .next h

/-- The two samples are one, and the two states after it are related. -/
theorem clockNow (m : Mirror S C) {s s' : State} (h : S s s') :
    (clockNow s').1 = (clockNow s).1 ∧ S (clockNow s).2 (clockNow s').2 := by
  have hagree := m.agree h
  have hdraw := (congrArg drawTick hagree.env_eq).trans (drawTick_stalls s.env s'.env.stallsAfter)
  have htime : s'.env.time = s.env.time := by rw [hagree.env_eq]
  have hnow : s'.env.time + (drawTick s'.env).1 = s.env.time + (drawTick s.env).1 := by rw [htime, hdraw]
  have hsample : (Machine.clockNow s').1 = (Machine.clockNow s).1 := by
    show (s'.env.time + (drawTick s'.env).1) % 2 ^ s'.par.clockWidth = _
    rw [hnow, hagree.par_eq]
    rfl
  have hagents : { (drawTick s'.env).2 with time := s'.env.time + (drawTick s'.env).1 } =
      { ({ (drawTick s.env).2 with time := s.env.time + (drawTick s.env).1 } : Env) with
        stallsAfter := s'.env.stallsAfter } := by
    rw [hnow, hdraw]
  refine ⟨hsample, ?_⟩
  show S _ (emit (.clockNow (Machine.clockNow s').1)
    { s' with env := { (drawTick s'.env).2 with time := s'.env.time + (drawTick s'.env).1 } })
  rw [hsample, hagents]
  exact m.record _ (m.agents _ h (by rw [drawTick_env]))

theorem storeCfg (m : Mirror S C) (w : CfgWrite) {s s' : State} (h : S s s') : S (storeCfg w s) (storeCfg w s') := by
  have hcfg := (m.agree h).cfg_eq
  cases w with
  | nn v =>
    have hset : ({ s'.cfg with nn := v } : Cfg) = { s.cfg with nn := v } := by rw [hcfg]
    simp only [Machine.storeCfg, hset]
    exact m.record _ (m.config _ h)
  | canid v =>
    have hset : ({ s'.cfg with canid := BitVec.setWidth 7 v } : Cfg) = { s.cfg with canid := BitVec.setWidth 7 v } := by
      rw [hcfg]
    simp only [Machine.storeCfg, hset]
    exact m.record _ (m.config _ h)
  | mode v =>
    have hset : ({ s'.cfg with mode := BitVec.setWidth 1 v } : Cfg) = { s.cfg with mode := BitVec.setWidth 1 v } := by
      rw [hcfg]
    simp only [Machine.storeCfg, hset]
    exact m.record _ (m.config _ h)

theorem setCfg (m : Mirror S C) (w : CfgWrite) {s s' : State} (h : S s s') : Follows S (setCfg w s) (setCfg w s') := by
  unfold Machine.setCfg
  split
  · exact .next (m.storeCfg w h)
  · exact .refused _

theorem sendOwn (m : Mirror S C) {opc opc' : Byte} (hopc : opc' = opc) {s s' : State} (h : S s s') :
    Follows (Beside S) (sendOwn opc s) (sendOwn opc' s') := by
  subst hopc
  rw [Machine.sendOwn, Machine.sendOwn, (m.agree h).cfg_eq]
  exact m.transportSend _ h

theorem negotiate (m : Mirror S C) {s s' : State} (h : S s s') : Follows S (negotiate s) (negotiate s') := by
  refine (m.indicateMode .modeChanging h).andThen fun t t' ht => ?_
  refine (m.sendOwn (congrArg Params.opcRqnn (m.agree ht).par_eq) ht).andThen fun r r' ⟨_, hr⟩ => .next ?_
  obtain ⟨hsample, hstate⟩ := m.clockNow hr
  have hstarted := m.flag true (m.timer (Machine.clockNow r.2).1 hstate)
  rw [← hsample] at hstarted ⊢
  exact hstarted

theorem setSlim (m : Mirror S C) {s s' : State} (h : S s s') : Follows S (setSlim s) (setSlim s') :=
  m.indicateMode .slim (m.flag false (m.storeCfg _ (m.storeCfg _ (m.storeCfg _ h))))

theorem revert (m : Mirror S C) {s s' : State} (h : S s s') : Follows S (revert s) (revert s') :=
  (m.sendOwn (congrArg Params.opcNnrel (m.agree h).par_eq) h).andThen fun _ _ ⟨_, hr⟩ => m.setSlim hr

theorem timeoutCheck (m : Mirror S C) {s s' : State} (h : S s s') : Follows S (timeoutCheck s) (timeoutCheck s') := by
  have hagree := m.agree h
  obtain ⟨hsample, hstate⟩ := m.clockNow h
  simp only [Machine.timeoutCheck, hagree.changing_eq, hagree.par_eq, hagree.started_eq, hagree.cfg_eq, hsample]
  split
  · split
    · exact (m.indicateMode _ hstate).andThen fun _ _ ht => .next (m.flag false ht)
    · exact .next hstate
  · exact .next h

theorem applyAction (m : Mirror S C) (a : Byte) {s s' : State} (h : S s s') :
    Follows S (applyAction a s) (applyAction a s') := by
  unfold Machine.applyAction
  rw [(m.agree h).cfg_eq]
  split
  · split
    · exact m.negotiate h
    · exact m.revert h
  · split
    · exact m.negotiate h
    · exact .next h

/-! ### Invoked parties -/

theorem handOff (m : Mirror S C) {enumerate enumerate' : State → Result}
    (hen : ∀ s s', S s s' → Follows S (enumerate s) (enumerate' s')) {s s' : State} (h : S s s') :
    Follows S (handOff enumerate s) (handOff enumerate' s') := by
  unfold Machine.handOff
  rw [(m.agree h).par_eq]
  split
  · exact hen _ _ (m.record _ h)
  · exact .next h

theorem confirm (m : Mirror S C) {enumerate enumerate' : State → Result}
    (hen : ∀ s s', S s s' → Follows S (enumerate s) (enumerate' s')) {s s' : State} (h : S s s') :
    Follows S (confirm enumerate s) (confirm enumerate' s') :=
  (m.indicateMode .flim (m.storeCfg _ (m.flag false h))).andThen fun _ _ ht => m.handOff hen ht

/-- An answer that both sides give without any other change. -/
theorem answers (m : Mirror S C) {a a' : Answer} {s s' : State} (ha : a' = a) (h : S s s') :
    Follows S (.next (answering a s)) (.next (answering a' s')) := by
  subst ha
  exact .next (m.answer a' h)

theorem execQput (m : Mirror S C) (msg : Message) {s s' : State} (h : S s s') :
    Follows S (execQput msg s) (execQput msg s') := by
  unfold Machine.execQput
  have hq : queuePut s'.par msg s'.queue = queuePut s.par msg s.queue := by
    rw [(m.agree h).par_eq, (m.agree h).queue_eq]
  rw [hq]
  split
  · exact .next (m.answer _ (m.setQueue _ h))
  · exact .refused _

theorem execQget (m : Mirror S C) {s s' : State} (h : S s s') : Follows S (execQget s) (execQget s') := by
  have hq : queueGet s'.par s'.lives s'.queue = queueGet s.par s.lives s.queue := by
    rw [(m.agree h).par_eq, (m.agree h).lives_eq, (m.agree h).queue_eq]
  simp only [Machine.execQget, hq]
  exact .next (m.answer _ (m.setQueue _ h))

theorem execQclear (m : Mirror S C) {s s' : State} (h : S s s') : Follows S (execQclear s) (execQclear s') := by
  have hq : queueClear s'.queue = queueClear s.queue := by rw [(m.agree h).queue_eq]
  simp only [Machine.execQclear, hq]
  exact .next (m.answer _ (m.setQueue _ h))

theorem execSend (m : Mirror S C) (msg : Message) {s s' : State} (h : S s s') :
    Follows S (execSend msg s) (execSend msg s') := by
  unfold Machine.execSend
  split
  · exact m.answeringSend rfl h
  · exact .refused _

theorem serviceOperation (m : Mirror S C) {enumerate enumerate' : State → Result}
    (hen : ∀ s s', S s s' → Follows S (enumerate s) (enumerate' s')) (i : Instr) {s s' : State} (h : S s s') :
    Follows S (serviceOperation enumerate i s) (serviceOperation enumerate' i s') := by
  have hagree := m.agree h
  cases i with
  | qput msg => exact m.execQput msg h
  | qget => exact m.execQget h
  | qclear => exact m.execQclear h
  | qpeek | qavail | qsize | qfull | qputs | qgets | qovf | qhwm =>
    exact m.answers (by simp only [hagree.queue_eq, hagree.lives_eq]) h
  | minit | mreneg => exact m.quietly (m.negotiate h)
  | mconfirm => exact m.quietly (m.confirm hen h)
  | mrevert => exact m.quietly (m.revert h)
  | msetslim => exact m.quietly (m.setSlim h)
  | send msg => exact m.execSend msg h
  | sendnn | sendWrack | sendCmderr | sendGrsp => exact m.answeringSend (by simp only [hagree.par_eq, hagree.cfg_eq]) h
  | _ => exact .refused _

theorem runBehaviour (m : Mirror S C) (b : Behaviour) {s s' : State} (h : S s s') :
    Follows (Beside S) (runBehaviour b s) (runBehaviour b s') := by
  induction b generalizing s s' with
  | done c => exact .next ⟨rfl, h⟩
  | hang => trivial
  | takeFrame => exact .refused _
  | setCfg w rest ih => exact (m.setCfg w h).andThen fun _ _ => ih
  | getCfg f rest ih =>
    have hanswer : cfgAnswer f s' = cfgAnswer f s := by
      cases f <;> simp only [cfgAnswer, (m.agree h).cfg_eq]
    rw [Machine.runBehaviour, Machine.runBehaviour, hanswer]
    exact ih (m.answer _ h)
  | request bytes nested rest ihn ih =>
    rw [runBehaviour_request, runBehaviour_request]
    refine Follows.andThen (Q := S) ?_ fun _ _ => ih
    unfold serviceRequest
    split
    · exact .refused _
    · split
      · exact .refused _
      · exact m.serviceOperation (fun _ _ hu => (ihn hu).andThen fun _ _ ⟨_, hr⟩ => .next hr) _ h

theorem invoke (m : Mirror S C) {s s' : State} (h : S s s') : Follows (Beside S) (invoke s) (invoke s') := by
  have hdraw := (congrArg drawBehaviour (m.agree h).env_eq).trans (drawBehaviour_stalls s.env s'.env.stallsAfter)
  simp only [Machine.invoke, hdraw]
  exact m.runBehaviour _ (m.agents _ h (by rw [drawBehaviour_env]))

theorem invokeHook (m : Mirror S C) {s s' : State} (h : S s s') : Follows S (invokeHook s) (invokeHook s') :=
  (m.invoke h).andThen fun _ _ ⟨_, hr⟩ => .next hr

theorem invokeHandler (m : Mirror S C) {s s' : State} (h : S s s') :
    Follows (Beside S) (invokeHandler s) (invokeHandler s') := by
  refine (m.invoke h).andThen fun r r' ⟨hclaim, hr⟩ => .next ⟨hclaim, ?_⟩
  rw [hclaim]
  exact m.record _ hr

/-! ### The passes -/

theorem initFrom (m : Mirror S C) (n i : Nat) {s s' : State} (h : S s s') :
    Follows S (initFrom n i s) (initFrom n i s') := by
  induction n generalizing i s s' with
  | zero => exact .next h
  | succ n ih => exact (m.invokeHook (m.record _ h)).andThen fun _ _ => ih (i + 1)

theorem initServices (m : Mirror S C) {s s' : State} (h : S s s') : Follows S (initServices s) (initServices s') := by
  rw [Machine.initServices, Machine.initServices, (m.agree h).par_eq]
  exact m.initFrom _ _ h

theorem housekeepFrom (m : Mirror S C) (a : Byte) (n i : Nat) {s s' : State} (h : S s s') :
    Follows S (housekeepFrom a n i s) (housekeepFrom a n i s') := by
  induction n generalizing i s s' with
  | zero => exact .next h
  | succ n ih => exact (m.invokeHook (m.record _ (m.phase _ h))).andThen fun _ _ => ih (i + 1)

theorem housekeep (m : Mirror S C) (a : Byte) {s s' : State} (h : S s s') :
    Follows S (housekeep a s) (housekeep a s') := by
  rw [Machine.housekeep, Machine.housekeep, (m.agree h).par_eq]
  exact m.housekeepFrom a _ _ h

/-- In a pass the two answers move the two sequencers to one place. -/
theorem passAnswer (m : Mirror S C) {sub : Sub} (hsub : isPass sub = true) (claimed : Bool) (i : Nat) {c c' : Nat}
    (hc : C c c') {s s' : State} (h : S s s') :
    Follows S (passAnswer claimed (atPhase (.p4Drain c sub i) s)) (passAnswer claimed (atPhase (.p4Drain c' sub i) s')) := by
  obtain ⟨sub', i', hmoves⟩ := passAnswer_of_pass hsub claimed (serviceCount s) i
  have hcount : serviceCount s' = serviceCount s := by rw [serviceCount, (m.agree h).par_eq, serviceCount]
  rw [hmoves c s rfl, hmoves c' s' hcount]
  exact .next (m.drainPhase _ _ hc h)

theorem passFrom (m : Mirror S C) {sub : Sub} (hsub : isPass sub = true) {call : Nat → State → Event}
    (hcall : ∀ i s s', Agree s s' → call i s' = call i s) {c c' : Nat} (hc : C c c') (n i : Nat) {s s' : State}
    (h : S s s') : Follows S (passFrom c sub call n i s) (passFrom c' sub call n i s') := by
  induction n generalizing i s s' with
  | zero => exact .next h
  | succ n ih =>
    rw [Machine.passFrom, Machine.passFrom, hcall i s s' (m.agree h)]
    refine (m.invokeHandler (m.record _ (m.drainPhase sub i hc h))).andThen fun r r' ⟨hclaim, hr⟩ => ?_
    rw [hclaim]
    refine (m.passAnswer hsub r.1 i hc hr).andThen fun t t' ht => ?_
    split
    · exact .next ht
    · exact ih (i + 1) ht

theorem rawPass (m : Mirror S C) {s s' : State} (h : S s s') : Follows S (rawPass s) (rawPass s') := by
  have hcount : serviceCount s' = serviceCount s := by rw [serviceCount, (m.agree h).par_eq, serviceCount]
  rw [rawPass_eq, rawPass_eq, hcount]
  exact m.passFrom rfl (fun i s s' hagree => by rw [rawCall, hagree.frm_eq, rawCall]) (m.count h) _ _ h

theorem decodedPass (m : Mirror S C) {s s' : State} (h : S s s') : Follows S (decodedPass s) (decodedPass s') := by
  have hcount : serviceCount s' = serviceCount s := by rw [serviceCount, (m.agree h).par_eq, serviceCount]
  rw [decodedPass_eq, decodedPass_eq, hcount, (m.agree h).frm_eq]
  split
  · exact m.passFrom rfl (fun i s s' hagree => by rw [decodedCall, hagree.msg_eq, decodedCall]) (m.count h) _ _ h
  · exact .next h

theorem callbackStep (m : Mirror S C) {s s' : State} (h : S s s') : Follows S (callbackStep s) (callbackStep s') := by
  have hagree := m.agree h
  unfold Machine.callbackStep
  rw [hagree.par_eq, hagree.frm_eq, hagree.msg_eq]
  split
  · exact m.invokeHook (m.record _ (m.drainPhase _ _ (m.count h) h))
  · exact .next h

/-! ### The cycle -/

/-- A frame held on both sides keeps the relation. -/
def Holds (S : State → State → Prop) : Prop := ∀ s s' f, S s s' → S (holdFrame f s) (holdFrame f s')

theorem classTest (m : Mirror S C) {c c' : Nat} (hc : C c c') (f : Frame) {s s' : State} (h : S s s') :
    Follows S (classTest c f s) (classTest c' f s') := by
  unfold Machine.classTest
  split
  · exact .next h
  · split
    · exact m.decodedPass (m.drainPhase _ _ hc h)
    · exact .next h

theorem dispatchFrame (m : Mirror S C) (hold : Holds S) {c c' : Nat} (hc : C c c') (f : Frame) {s s' : State}
    (h : S s s') : Follows S (dispatchFrame c f s) (dispatchFrame c' f s') := by
  refine (m.callbackStep (m.drainPhase _ _ hc (hold _ _ f h))).andThen fun t t' ht => ?_
  refine (m.rawPass (m.drainPhase _ _ hc ht)).andThen fun u u' hu => ?_
  exact (m.indicateActivity (m.drainPhase _ _ hc hu)).andThen fun _ _ => m.classTest hc f

theorem transportAvailable (m : Mirror S C) {s s' : State} (h : S s s') :
    Follows (Beside S) (transportAvailable s) (transportAvailable s') := by
  refine (m.reach h).andThen fun t t' ht => .next ?_
  have hdraw := (congrArg drawArrivals (m.agree ht).env_eq).trans (drawArrivals_stalls t.env t'.env.stallsAfter)
  rw [hdraw]
  exact ⟨rfl, m.agents { (drawArrivals t.env).2 with rx := (drawArrivals t.env).2.rx ++ (drawArrivals t.env).1 } ht
    (by rw [drawArrivals_env])⟩

theorem transportNext (m : Mirror S C) {s s' : State} (h : S s s') :
    Follows (Beside S) (transportNext s) (transportNext s') := by
  refine (m.reach h).andThen fun t t' ht => ?_
  have henv := (m.agree ht).env_eq
  have hrx : t'.env.rx = t.env.rx := by rw [henv]
  rw [hrx]
  split
  · exact .refused _
  · rename_i f rest _
    have hrest : ({ t'.env with rx := rest } : Env) =
        { ({ t.env with rx := rest } : Env) with stallsAfter := t'.env.stallsAfter } := by rw [henv]
    rw [hrest]
    split
    · exact .next ⟨rfl, m.record _ (m.agents { t.env with rx := rest } ht rfl)⟩
    · exact .refused _

theorem drainFrom (m : Mirror S C) (hold : Holds S) (n : Nat) {c c' : Nat} (hc : C c c') {s s' : State} (h : S s s') :
    Follows S (drainFrom n c s) (drainFrom n c' s') := by
  induction n generalizing c c' s s' with
  | zero => exact .next h
  | succ n ih =>
    refine (m.transportAvailable h).andThen fun query query' ⟨hsome, hquery⟩ => ?_
    rw [hsome]
    split
    · refine (m.transportNext hquery).andThen fun r r' ⟨hf, hr⟩ => ?_
      rw [hf]
      exact (m.dispatchFrame hold (m.count_succ hc) r.1 hr).andThen fun _ _ => ih (m.count_succ hc)
    · exact .next hquery

theorem drain (m : Mirror S C) (hold : Holds S) (n : Byte) {s s' : State} (h : S s s') :
    Follows S (drain n s) (drain n s') :=
  m.drainFrom hold _ m.count_zero (m.phase _ h)

theorem pollUi (m : Mirror S C) {s s' : State} (h : S s s') : Follows S (pollUi s) (pollUi s') := by
  have hdraw := (congrArg drawTurn (m.agree h).env_eq).trans (drawTurn_stalls s.env s'.env.stallsAfter)
  have hui : s'.par.uiPresent = s.par.uiPresent := by rw [(m.agree h).par_eq]
  simp only [Machine.pollUi, hui, hdraw]
  split
  · split
    · exact .next (m.latch _ (m.record _ (m.record _ (m.agents (drawTurn s.env).2 h (by rw [drawTurn_env])))))
    · trivial
  · exact .next (m.latch _ h)

theorem actOn (m : Mirror S C) {s s' : State} (h : S s s') : Follows S (actOn s) (actOn s') := by
  rw [Machine.actOn, Machine.actOn, (m.agree h).act_eq]
  exact (m.applyAction _ (m.phase _ h)).andThen fun _ _ ht => m.housekeep _ (m.phase _ ht)

theorem cycle (m : Mirror S C) (hold : Holds S) (n : Byte) {s s' : State} (h : S s s') :
    Follows S (cycle n s) (cycle n s') := by
  refine (m.pollUi (m.phase _ h)).andThen fun t t' ht => ?_
  refine (m.actOn ht).andThen fun u u' hu => ?_
  refine (m.drain hold n hu).andThen fun v v' hv => ?_
  exact (m.timeoutCheck (m.phase _ hv)).andThen fun _ _ hw => .next (m.phase _ hw)

theorem receive (m : Mirror S C) (hold : Holds S) (f : Frame) {s s' : State} (h : S s s') :
    Follows S (receive f s) (receive f s') := by
  unfold Machine.receive
  split
  · exact m.quietly (m.keepingPhase h (m.dispatchFrame hold (m.count h) f h))
  · exact .refused _

theorem reportedAction (m : Mirror S C) (a : Byte) {s s' : State} (h : S s s') :
    Follows S (reportedAction a s) (reportedAction a s') :=
  m.quietly (m.keepingPhase (m.latch a h) (m.actOn (m.latch a h)))

end Mirror

end Sys2Proof.Machine
end

section
/-!
PROOF. The uses of `Mirror`: a transaction that never returns changes nothing else (60_exceptions.md R222), the passes
before a frame is drained (93_implementation_defined.md U9), and PROCESS and DRAIN as the sequence of their steps
(44_dispatcher_cycle.md R175 to R184).
-/
namespace Sys2Proof.Machine

/-! ### A transaction that never returns (60_exceptions.md R222) -/

/-- Every operation does on a state where all transactions return what it does on the state itself, where it ends. -/
theorem mirror_returning : Mirror (fun s s' => s' = returning s) Eq where
  agree := by rintro s _ rfl; exact ⟨rfl, rfl, rfl, rfl, rfl, rfl, rfl, rfl, rfl, rfl⟩
  reach := by
    rintro s _ rfl
    have hreturns : reach (returning s) = .next (returning s) := reach_of_allReturn rfl
    rw [hreturns]
    cases h : reach s with
    | next t => exact .next (by rw [reach_eq_next h]; rfl)
    | fault f => trivial
    | refused e => unfold reach at h; split at h <;> cases h
  agents _ h _ := by subst h; rfl
  record _ h := by subst h; rfl
  answer _ h := by subst h; rfl
  config _ h := by subst h; rfl
  flag _ h := by subst h; rfl
  timer _ h := by subst h; rfl
  latch _ h := by subst h; rfl
  setQueue _ h := by subst h; rfl
  phase _ h := by subst h; rfl
  drainPhase _ _ hc h := by subst hc h; rfl
  restore h h' := by subst h h'; rfl
  count h := by subst h; rfl
  count_zero := rfl
  count_succ h := congrArg (· + 1) h

theorem holds_returning : Mirror.Holds fun s s' => s' = returning s := by
  rintro s _ f rfl
  rfl

theorem passAnswer_returning (c : Bool) (s : State) :
    Follows (fun s s' => s' = returning s) (passAnswer c s) (passAnswer c (returning s)) := by
  unfold passAnswer
  show Follows _ _ (match seqAfterAnswer s.par.services.length c s.seq with
    | some p => .next (atPhase p (returning s))
    | none => .refused .answerOutsideHandler)
  cases seqAfterAnswer s.par.services.length c s.seq with
  | some p => exact .next rfl
  | none => exact .refused _

theorem exec_returning (i : Instr) (s : State) :
    Follows (fun s s' => s' = returning s) (exec i s) (exec i (returning s)) := by
  have m := mirror_returning
  have hold := holds_returning
  cases i with
  | reset =>
    refine m.quietly ?_
    cases hlegal : legalConstruction s.par (BitVec.setWidth 8 s.cfg.canid) (BitVec.setWidth 8 s.cfg.mode) with
    | true =>
      rw [construct_of_legal s.cfg.nn s hlegal]
      exact (construct_of_legal s.cfg.nn (returning s) hlegal).symm ▸ m.initServices rfl
    | false =>
      rw [construct_of_illegal s.cfg.nn s hlegal]
      exact construct_of_illegal s.cfg.nn (returning s) hlegal
  | process n =>
    by_cases hidle : s.seq = .idle
    · show Follows _ (execProcess n s) (execProcess n (returning s))
      rw [execProcess, execProcess, if_pos hidle, if_pos (show (returning s).seq = .idle from hidle)]
      exact m.quietly (m.cycle hold n rfl)
    · rw [exec_process_of_not_idle n hidle]
      exact exec_process_of_not_idle (s := returning s) n hidle
  | pUi => exact (m.pollUi rfl).andThen fun t t' ht => .next (by rw [ht]; rfl)
  | drain n => exact m.quietly (m.keepingPhase rfl (m.drain hold n rfl))
  | housekeep a => exact m.quietly (m.keepingPhase rfl (m.housekeep a rfl))
  | fhCall => exact m.quietly (m.keepingPhase rfl (m.callbackStep rfl))
  | rawdisp => exact m.quietly (m.keepingPhase rfl (m.rawPass rfl))
  | activity => exact m.quietly (m.indicateActivity rfl)
  | decdisp => exact m.quietly (m.keepingPhase rfl (m.decodedPass rfl))
  | svcInit => exact m.quietly (m.initServices rfl)
  | qput msg => exact m.execQput msg rfl
  | qget | qclear | qpeek | qavail | qsize | qfull | qputs | qgets | qovf | qhwm => exact .next rfl
  | minit | mreneg => exact m.quietly (m.negotiate rfl)
  | mconfirm => exact m.quietly (m.confirm (fun _ _ => m.invokeHook) rfl)
  | mtimeout => exact m.quietly (m.timeoutCheck rfl)
  | mrevert => exact m.quietly (m.revert rfl)
  | msetslim => exact m.quietly (m.setSlim rfl)
  | museract a => exact m.quietly (m.applyAction a rfl)
  | indicate v => exact m.quietly (m.indicateMode v rfl)
  | indSlim | indFlim | indModechanging => exact m.quietly (m.indicateMode _ rfl)
  | enumStart => exact m.quietly (m.handOff (fun _ _ => m.invokeHook) rfl)
  | send msg => exact m.execSend msg rfl
  | sendnn | sendRqnn | sendNnrel | sendWrack | sendCmderr | sendGrsp => exact m.answeringSend rfl rfl
  | rqnn | nnrel | wrack | cmderr | grsp => exact m.answeringSend rfl rfl
  | fExt rtr len data hdr => exact m.receive hold ⟨true, rtr, len, data, hdr⟩ rfl
  | fZero rtr data hdr => exact m.receive hold ⟨false, rtr, 0#4, data, hdr⟩ rfl
  | fStd rtr len data hdr => exact m.receive hold ⟨false, rtr, len, data, hdr⟩ rfl
  | fIllegal => exact .refused _
  | actNone | actChangeMode | actRenegotiate | actEnumeration => exact m.reportedAction _ rfl
  | ansNotClaimed => exact passAnswer_returning false (emit (.handlerAnswer false) s)
  | ansClaimed => exact passAnswer_returning true (emit (.handlerAnswer true) s)

/-! The first transaction hangs. -/

theorem quietly_of_fault {op : State → Result} {s : State} {f : Fault} (h : op s = .fault f) :
    quietly op s = .fault f := by
  rw [quietly, h, andThen_fault]

theorem keepingPhase_of_fault {op : State → Result} {s : State} {f : Fault} (h : op s = .fault f) :
    keepingPhase op s = .fault f := by
  rw [keepingPhase, h, andThen_fault]

theorem transportSend_of_stall (m : Message) {s : State} (h : s.env.stallsAfter = some 0) :
    transportSend m s = .fault .neverReturns := by
  rw [transportSend, reach_of_stall h, andThen_fault]

/-- One that returns is counted. -/
theorem transportSend_of_counted (m : Message) {s : State} {n : Nat} (h : s.env.stallsAfter = some (n + 1)) :
    ∃ ok t, transportSend m s = .next (ok, t) ∧ t.env.stallsAfter = some n := by
  have hreach : reach s = .next { s with env := { s.env with stallsAfter := some n } } := by simp only [reach, h]
  refine ⟨_, _, by rw [transportSend, hreach, andThen_next], ?_⟩
  show (drawSend { s.env with stallsAfter := some n }).2.stallsAfter = some n
  rw [drawSend_env]

theorem answeringSend_of_stall (m : Message) {s : State} (h : s.env.stallsAfter = some 0) :
    answeringSend (transportSend m s) = .fault .neverReturns := by
  rw [answeringSend, transportSend_of_stall m h, andThen_fault]

theorem indicateMode_of_stall (v : Indication) {s : State} (hui : s.par.uiPresent = true)
    (h : s.env.stallsAfter = some 0) : indicateMode v s = .fault .neverReturns := by
  rw [indicateMode, if_pos hui, reach_of_stall h, andThen_fault]

theorem indicateActivity_of_stall {s : State} (hui : s.par.uiPresent = true) (h : s.env.stallsAfter = some 0) :
    indicateActivity s = .fault .neverReturns := by
  rw [indicateActivity, if_pos hui, reach_of_stall h, andThen_fault]

/-- With a UI the indication hangs, without one the send. -/
theorem negotiate_of_stall {s : State} (h : s.env.stallsAfter = some 0) : negotiate s = .fault .neverReturns := by
  cases hui : s.par.uiPresent with
  | true => rw [negotiate, indicateMode_of_stall .modeChanging hui h, andThen_fault]
  | false =>
    have hsilent : indicateMode .modeChanging s = .next s := if_neg (by simp [hui])
    rw [negotiate, hsilent, andThen_next, sendOwn, transportSend_of_stall _ h, andThen_fault]

theorem revert_of_stall {s : State} (h : s.env.stallsAfter = some 0) : revert s = .fault .neverReturns := by
  rw [revert, sendOwn, transportSend_of_stall _ h, andThen_fault]

theorem drain_of_stall {s : State} {n : Byte} (hn : n ≠ 0x00#8) (h : s.env.stallsAfter = some 0) :
    drain n s = .fault .neverReturns := by
  have hpos : n.toNat ≠ 0 := fun hzero => hn (byte_eq_of_toNat hzero)
  obtain ⟨k, hk⟩ := Nat.exists_eq_succ_of_ne_zero hpos
  have hquery : transportAvailable (atPhase (.p4Drain 0 .fh 0) s) = .fault .neverReturns := by
    rw [transportAvailable, reach_of_stall (s := atPhase (.p4Drain 0 .fh 0) s) h, andThen_fault]
  rw [drain, hk, drainFrom, hquery, andThen_fault]

/-! ### The passes before a frame is drained (93_implementation_defined.md U9) -/

/-- The second state holds no frame, and the first holds what the registers of the second read as. -/
def ReadsAs (frm : Frame) (msg : Message) (s s' : State) : Prop :=
  (s.frameHeld = true ∧ s.frm = Config.freeFrm s.lives ∧ s.msg = Config.freeMsg s.lives) ∧
    s' = { s with frameHeld := false, frm := frm, msg := msg }

theorem ReadsAs.agree {frm : Frame} {msg : Message} {s s' : State} (h : ReadsAs frm msg s s') : Agree s s' := by
  obtain ⟨⟨hheld, hfrm, hmsg⟩, rfl⟩ := h
  refine ⟨rfl, rfl, rfl, rfl, rfl, rfl, rfl, ?_, ?_, rfl⟩
  · rw [readFrm_of_held hheld, hfrm]; rfl
  · rw [readMsg_of_held hheld, hmsg]; rfl

theorem mirror_readsAs (frm : Frame) (msg : Message) : Mirror (ReadsAs frm msg) Eq where
  agree := ReadsAs.agree
  reach := by
    rintro s _ ⟨hreads, rfl⟩
    unfold reach
    cases hstall : s.env.stallsAfter with
    | none => exact .next ⟨hreads, rfl⟩
    | some n =>
      cases n with
      | zero => trivial
      | succ n => exact .next ⟨hreads, rfl⟩
  agents := by rintro s _ e ⟨hreads, rfl⟩ he; exact ⟨hreads, by rw [← he]⟩
  record := by rintro s _ e ⟨hreads, rfl⟩; exact ⟨hreads, rfl⟩
  answer := by rintro s _ a ⟨hreads, rfl⟩; exact ⟨hreads, rfl⟩
  config := by rintro s _ c ⟨hreads, rfl⟩; exact ⟨hreads, rfl⟩
  flag := by rintro s _ b ⟨hreads, rfl⟩; exact ⟨hreads, rfl⟩
  timer := by rintro s _ n ⟨hreads, rfl⟩; exact ⟨hreads, rfl⟩
  latch := by rintro s _ a ⟨hreads, rfl⟩; exact ⟨hreads, rfl⟩
  setQueue := by rintro s _ q ⟨hreads, rfl⟩; exact ⟨hreads, rfl⟩
  phase := by rintro s _ p ⟨hreads, rfl⟩; exact ⟨hreads, rfl⟩
  drainPhase := by rintro s _ c _ sub i rfl ⟨hreads, rfl⟩; exact ⟨hreads, rfl⟩
  restore := by rintro s _ u _ ⟨-, rfl⟩ ⟨hreads, rfl⟩; exact ⟨hreads, rfl⟩
  count := by rintro s _ ⟨-, rfl⟩; rfl
  count_zero := rfl
  count_succ h := congrArg (· + 1) h

theorem exec_readsAs {i : Instr} (hi : i = .fhCall ∨ i = .rawdisp ∨ i = .decdisp) {frm : Frame} {msg : Message}
    {s s' : State} (h : ReadsAs frm msg s s') : Follows (ReadsAs frm msg) (exec i s) (exec i s') := by
  have m := mirror_readsAs frm msg
  obtain rfl | rfl | rfl := hi
  · exact m.quietly (m.keepingPhase h (m.callbackStep h))
  · exact m.quietly (m.keepingPhase h (m.rawPass h))
  · exact m.quietly (m.keepingPhase h (m.decodedPass h))

/-! ### States that differ in the sequencer and the answer latch only -/

/-- What a step of another operation leaves different: where the sequencer stands, and the answer of a step. -/
def SameButPhase (s s' : State) : Prop := ∃ p a, s' = { s with seq := p, answer := a }

theorem SameButPhase.refl (s : State) : SameButPhase s s := ⟨s.seq, s.answer, rfl⟩

theorem SameButPhase.symm {s s' : State} (h : SameButPhase s s') : SameButPhase s' s := by
  obtain ⟨p, a, rfl⟩ := h
  exact ⟨s.seq, s.answer, rfl⟩

theorem SameButPhase.trans {s t u : State} (h : SameButPhase s t) (h' : SameButPhase t u) : SameButPhase s u := by
  obtain ⟨p, a, rfl⟩ := h
  obtain ⟨q, b, rfl⟩ := h'
  exact ⟨q, b, rfl⟩

theorem SameButPhase.atPhase_left {s s' : State} (h : SameButPhase s s') (p : Seq) : SameButPhase (atPhase p s) s' :=
  SameButPhase.trans ⟨s.seq, s.answer, rfl⟩ h

theorem mirror_sameButPhase : Mirror SameButPhase fun _ _ => True where
  agree := by rintro s _ ⟨p, a, rfl⟩; exact ⟨rfl, rfl, rfl, rfl, rfl, rfl, rfl, rfl, rfl, rfl⟩
  reach := by
    rintro s _ ⟨p, a, rfl⟩
    unfold reach
    cases hstall : s.env.stallsAfter with
    | none => exact .next ⟨p, a, rfl⟩
    | some n =>
      cases n with
      | zero => trivial
      | succ n => exact .next ⟨p, a, rfl⟩
  agents := by rintro s _ e ⟨p, a, rfl⟩ he; exact ⟨p, a, by rw [← he]⟩
  record := by rintro s _ e ⟨p, a, rfl⟩; exact ⟨p, a, rfl⟩
  answer := by rintro s _ b ⟨p, a, rfl⟩; exact ⟨p, b, rfl⟩
  config := by rintro s _ c ⟨p, a, rfl⟩; exact ⟨p, a, rfl⟩
  flag := by rintro s _ b ⟨p, a, rfl⟩; exact ⟨p, a, rfl⟩
  timer := by rintro s _ n ⟨p, a, rfl⟩; exact ⟨p, a, rfl⟩
  latch := by rintro s _ b ⟨p, a, rfl⟩; exact ⟨p, a, rfl⟩
  setQueue := by rintro s _ q ⟨p, a, rfl⟩; exact ⟨p, a, rfl⟩
  phase := by rintro s _ q ⟨p, a, rfl⟩; exact ⟨q, a, rfl⟩
  drainPhase := by rintro s _ c c' sub i - ⟨p, a, rfl⟩; exact ⟨_, a, rfl⟩
  restore := by rintro s _ u _ ⟨p, a, rfl⟩ ⟨p', a', rfl⟩; exact ⟨_, a', rfl⟩
  count _ := trivial
  count_zero := trivial
  count_succ _ := trivial

theorem holds_sameButPhase : Mirror.Holds SameButPhase := by
  rintro s _ f ⟨p, a, rfl⟩
  exact ⟨p, a, rfl⟩

/-- Two outcomes that differ in the sequencer and the answer latch only. -/
structure Alike (r r' : Result) : Prop where
  forth : Follows SameButPhase r r'
  back : Follows SameButPhase r' r

namespace Alike

theorem of_mirror {op op' : State → Result}
    (hop : ∀ s s', SameButPhase s s' → Follows SameButPhase (op s) (op' s'))
    (hop' : ∀ s s', SameButPhase s s' → Follows SameButPhase (op' s) (op s')) {s s' : State} (h : SameButPhase s s') :
    Alike (op s) (op' s') :=
  ⟨hop s s' h, hop' s' s h.symm⟩

theorem next {s s' : State} (h : SameButPhase s s') : Alike (.next s) (.next s') := ⟨.next h, .next h.symm⟩

theorem andThen {r r' : Result} {k k' : State → Result} (h : Alike r r')
    (hk : ∀ t t', SameButPhase t t' → Alike (k t) (k' t')) : Alike (andThen r k) (andThen r' k') :=
  ⟨h.forth.andThen fun t t' ht => (hk t t' ht).forth, h.back.andThen fun t' t ht => (hk t t' ht.symm).back⟩

/-- What only moves the sequencer or gives an answer leaves the outcome alike. -/
theorem finish_right {r r' : Result} (h : Alike r r') {f : State → State} (hf : ∀ t, SameButPhase t (f t)) :
    Alike r (Machine.andThen r' fun t => .next (f t)) := by
  constructor
  · cases r with
    | next a =>
      obtain ⟨b, rfl, hab⟩ := h.forth
      exact ⟨_, rfl, hab.trans (hf b)⟩
    | refused e => rw [show r' = .refused e from h.forth]; exact .refused e
    | fault f => trivial
  · cases r' with
    | next b =>
      obtain ⟨a, rfl, hba⟩ := h.back
      exact ⟨_, rfl, (hf b).symm.trans hba⟩
    | refused e => exact h.back
    | fault f => trivial

theorem symm {r r' : Result} (h : Alike r r') : Alike r' r := ⟨h.back, h.forth⟩

theorem finish_left {r r' : Result} (h : Alike r r') {f : State → State} (hf : ∀ t, SameButPhase t (f t)) :
    Alike (Machine.andThen r fun t => .next (f t)) r' :=
  (h.symm.finish_right hf).symm

theorem quietly_right {r : Result} {op : State → Result} {s : State} (h : Alike r (op s)) : Alike r (quietly op s) :=
  h.finish_right fun t => ⟨t.seq, .nothing, rfl⟩

theorem keepingPhase_right {r : Result} {op : State → Result} {s : State} (h : Alike r (op s)) :
    Alike r (keepingPhase op s) :=
  h.finish_right fun t => ⟨s.seq, t.answer, rfl⟩

/-- Outcomes that are alike and leave the sequencer and the answer at the same values are equal. -/
theorem eq {r r' : Result} (h : Alike r r') {p : Seq} {a : Answer} (hr : ∀ t, r = .next t → t.seq = p ∧ t.answer = a)
    (hr' : ∀ t, r' = .next t → t.seq = p ∧ t.answer = a) : r = r' := by
  cases r with
  | next s =>
    obtain ⟨s', rfl, ⟨q, b, rfl⟩⟩ := h.forth
    obtain ⟨hseq, hans⟩ := hr s rfl
    obtain ⟨hseq', hans'⟩ := hr' _ rfl
    have hq : q = s.seq := hseq'.trans hseq.symm
    have hb : b = s.answer := hans'.trans hans.symm
    rw [hq, hb]
  | refused e => exact (show r' = .refused e from h.forth).symm
  | fault f =>
    cases r' with
    | next s' =>
      obtain ⟨s, hs, -⟩ := h.back
      cases hs
    | refused e => exact h.back
    | fault f' => cases f; cases f'; rfl

end Alike

theorem andThen_assoc {α β γ : Type} (r : Host.Outcome α Fault Refusal) (k : α → Host.Outcome β Fault Refusal)
    (k' : β → Host.Outcome γ Fault Refusal) : andThen (andThen r k) k' = andThen r fun a => andThen (k a) k' := by
  cases r <;> rfl

/-! ### The steps of PROCESS (44_dispatcher_cycle.md R175) -/

theorem exec_process_of_idle {s : State} (n : Byte) (h : s.seq = .idle) : exec (.process n) s = quietly (cycle n) s :=
  if_pos h

/-- PROCESS as the requests for its five steps, one after the other. -/
def processSteps (n : Byte) (s : State) : Result :=
  andThen (exec .pUi s) fun t =>
  andThen (exec (.museract t.act) t) fun u =>
  andThen (exec (.housekeep t.act) u) fun v =>
  andThen (exec (.drain n) v) fun w =>
  exec .mtimeout w

theorem cycle_alike_processSteps (n : Byte) (s : State) : Alike (cycle n s) (processSteps n s) := by
  have m := mirror_sameButPhase
  have hold := holds_sameButPhase
  refine Alike.andThen ?poll fun t t' ht => ?_
  case poll =>
    refine Alike.finish_right ?_ fun t => ⟨t.seq, .byte t.act, rfl⟩
    exact .of_mirror (fun _ _ => m.pollUi) (fun _ _ => m.pollUi) ((SameButPhase.refl s).atPhase_left .p1Ui)
  rw [actOn, andThen_assoc, (m.agree ht).act_eq]
  refine Alike.andThen ?apply fun u u' hu => Alike.andThen ?hooks fun v v' hv => Alike.andThen ?drain fun w w' hw => ?judge
  case apply =>
    refine Alike.quietly_right ?_
    exact .of_mirror (fun _ _ => m.applyAction t.act) (fun _ _ => m.applyAction t.act) (ht.atPhase_left .p2Act)
  case hooks =>
    refine Alike.quietly_right (Alike.keepingPhase_right ?_)
    exact .of_mirror (fun _ _ => m.housekeep t.act) (fun _ _ => m.housekeep t.act) (hu.atPhase_left (.p3House 0))
  case drain =>
    refine Alike.quietly_right (Alike.keepingPhase_right ?_)
    exact .of_mirror (fun _ _ => m.drain hold n) (fun _ _ => m.drain hold n) hv
  case judge =>
    refine Alike.quietly_right (Alike.finish_left ?_ fun w => ⟨.idle, w.answer, rfl⟩)
    exact .of_mirror (fun _ _ => m.timeoutCheck) (fun _ _ => m.timeoutCheck) (hw.atPhase_left .p5Tmo)

theorem quietly_answer {op : State → Result} {s t : State} (h : quietly op s = .next t) : t.answer = .nothing := by
  obtain ⟨u, -, rfl⟩ := quietly_eq_next.mp h
  rfl

/-- The five steps begun in IDLE end in IDLE, and the last of them answers nothing. -/
theorem processSteps_end {n : Byte} {s t : State} (hidle : s.seq = .idle) (h : processSteps n s = .next t) :
    t.seq = .idle ∧ t.answer = .nothing := by
  obtain ⟨u, hu, h⟩ := andThen_eq_next.mp h
  obtain ⟨v, hv, h⟩ := andThen_eq_next.mp h
  obtain ⟨w, hw, h⟩ := andThen_eq_next.mp h
  obtain ⟨x, hx, h⟩ := andThen_eq_next.mp h
  have hpolled := exec_seq_idle hidle hu
  have hacted := exec_seq_idle (exec_seq_idle hpolled hv) hw
  exact ⟨exec_seq_idle (exec_seq_idle hacted hx) h, quietly_answer h⟩

theorem exec_process_eq {s : State} (n : Byte) (hidle : s.seq = .idle) : exec (.process n) s = processSteps n s := by
  have halike : Alike (exec (.process n) s) (processSteps n s) := by
    rw [exec_process_of_idle n hidle]
    exact (cycle_alike_processSteps n s).symm.quietly_right.symm
  refine halike.eq (fun t ht => ⟨exec_seq_idle hidle ht, ?_⟩) fun t => processSteps_end hidle
  rw [exec_process_of_idle n hidle] at ht
  exact quietly_answer ht

/-! ### The steps of DRAIN (44_dispatcher_cycle.md R180 to R183) -/

/-- The work on the frame held now, and the rest of the drain, as the requests for its steps. -/
def drainSteps (f : Frame) (n : Byte) (s : State) : Result :=
  andThen (exec .fhCall s) fun a =>
  andThen (exec .rawdisp a) fun b =>
  andThen (exec .activity b) fun c =>
  andThen (if f.ext = false ∧ f.len.toNat ≠ 0 then exec .decdisp c else .next c) (exec (.drain n))

/-- The class test is DECDISP for a frame of class F_STD, and nothing for another. -/
theorem classTest_alike (c : Nat) (f : Frame) {s s' : State} (h : SameButPhase s s') :
    Alike (classTest c f s) (if f.ext = false ∧ f.len.toNat ≠ 0 then exec .decdisp s' else .next s') := by
  unfold classTest
  split
  · rw [if_neg (by simp [*])]
    exact .next h
  · split
    · rw [if_pos (by simp_all)]
      have m := mirror_sameButPhase
      refine Alike.quietly_right (Alike.keepingPhase_right ?_)
      exact .of_mirror (fun _ _ => m.decodedPass) (fun _ _ => m.decodedPass) (h.atPhase_left _)
    · rw [if_neg (by simp_all)]
      exact .next h

theorem dispatchFrame_alike_drainSteps {f : Frame} {n : Byte} {k c : Nat} (hn : n.toNat = k) {s s' : State}
    (h : SameButPhase (holdFrame f s) s') :
    Alike (andThen (dispatchFrame c f s) (drainFrom k c)) (drainSteps f n s') := by
  have m := mirror_sameButPhase
  have hold := holds_sameButPhase
  rw [dispatchFrame, andThen_assoc]
  refine Alike.andThen ?callback fun t t' ht => ?_
  case callback =>
    refine Alike.quietly_right (Alike.keepingPhase_right ?_)
    exact .of_mirror (fun _ _ => m.callbackStep) (fun _ _ => m.callbackStep) (h.atPhase_left _)
  rw [andThen_assoc]
  refine Alike.andThen ?raw fun u u' hu => ?_
  case raw =>
    refine Alike.quietly_right (Alike.keepingPhase_right ?_)
    exact .of_mirror (fun _ _ => m.rawPass) (fun _ _ => m.rawPass) (ht.atPhase_left _)
  rw [andThen_assoc]
  refine Alike.andThen ?activity fun v v' hv => Alike.andThen (classTest_alike c f hv) fun w w' hw => ?rest
  case activity =>
    refine Alike.quietly_right ?_
    exact .of_mirror (fun _ _ => m.indicateActivity) (fun _ _ => m.indicateActivity) (hu.atPhase_left _)
  case rest =>
    refine Alike.quietly_right (Alike.keepingPhase_right ?_)
    rw [drain, hn]
    exact .of_mirror (fun _ _ => m.drainFrom hold k trivial) (fun _ _ => m.drainFrom hold k trivial)
      (hw.symm.atPhase_left _).symm

theorem exec_activity_seq {s t : State} (h : exec .activity s = .next t) : t.seq = s.seq :=
  keptByParties_seq.quietly (fun _ => keptByParties_seq.indicateActivity) h

theorem drainSteps_end {f : Frame} {n : Byte} {s t : State} (h : drainSteps f n s = .next t) :
    t.seq = s.seq ∧ t.answer = .nothing := by
  obtain ⟨u, hu, h⟩ := andThen_eq_next.mp h
  obtain ⟨v, hv, h⟩ := andThen_eq_next.mp h
  obtain ⟨w, hw, h⟩ := andThen_eq_next.mp h
  obtain ⟨x, hx, h⟩ := andThen_eq_next.mp h
  have hdecoded : x.seq = w.seq := by
    split at hx
    · exact quietly_keepingPhase_seq hx
    · cases hx; rfl
  have hshown := (exec_activity_seq hw).trans ((quietly_keepingPhase_seq hv).trans (quietly_keepingPhase_seq hu))
  exact ⟨(quietly_keepingPhase_seq h).trans (hdecoded.trans hshown), quietly_answer h⟩

/-- The state in which the next frame has been asked for and retrieved, and is held. -/
def retrieved (f : Frame) (rest : List Frame) (more : List (List Frame)) (s : State) : State :=
  { s with
    env := { s.env with rx := rest, arrivals := more }, trace := s.trace ++ [.transportNext f]
    frm := f, msg := ⟨f.len, f.data⟩, frameHeld := true }

theorem transportAvailable_of_cons {s : State} {batch : List Frame} {more : List (List Frame)} (h : AllReturn s)
    (harrivals : s.env.arrivals = batch :: more) :
    transportAvailable s = .next (!(s.env.rx ++ batch).isEmpty, { s with
      env := { s.env with rx := s.env.rx ++ batch, arrivals := more } }) := by
  have hdraw : drawArrivals s.env = (batch, { s.env with arrivals := more }) := by simp [drawArrivals, harrivals]
  rw [transportAvailable_of_allReturn h, hdraw]

theorem transportNext_of_legal {s : State} {f : Frame} {rest : List Frame} (h : AllReturn s)
    (hrx : s.env.rx = f :: rest) (hlen : legalLen f.len = true) :
    transportNext s = .next (f, { s with
      env := { s.env with rx := rest }, trace := s.trace ++ [.transportNext f] }) := by
  simp [transportNext, reach_of_allReturn h, hrx, hlen, emit]

/-- One turn of the drain loop with no frame to retrieve. -/
theorem drainFrom_of_none {s : State} {batch : List Frame} {more : List (List Frame)} (n c : Nat) (h : AllReturn s)
    (harrivals : s.env.arrivals = batch :: more) (hrx : s.env.rx ++ batch = []) :
    drainFrom (n + 1) c s = .next { s with env := { s.env with rx := [], arrivals := more } } := by
  rw [drainFrom, transportAvailable_of_cons h harrivals, andThen_next, hrx]
  rfl

/-- One turn of the drain loop with a frame whose length is no length. -/
theorem drainFrom_of_illegal {s : State} {batch rest : List Frame} {f : Frame} {more : List (List Frame)} (n c : Nat)
    (h : AllReturn s) (harrivals : s.env.arrivals = batch :: more) (hrx : s.env.rx ++ batch = f :: rest)
    (hlen : legalLen f.len = false) : drainFrom (n + 1) c s = .refused .illegalFrameLength := by
  rw [drainFrom, transportAvailable_of_cons h harrivals, andThen_next, hrx]
  show andThen (transportNext { s with env := { s.env with rx := f :: rest, arrivals := more } }) _ = _
  rw [transportNext_of_illegal (s := { s with env := { s.env with rx := f :: rest, arrivals := more } }) h rfl hlen,
    andThen_refused]

/-- One turn of the drain loop with a frame. -/
theorem drainFrom_of_frame {s : State} {batch rest : List Frame} {f : Frame} {more : List (List Frame)} (n c : Nat)
    (h : AllReturn s) (harrivals : s.env.arrivals = batch :: more) (hrx : s.env.rx ++ batch = f :: rest)
    (hlen : legalLen f.len = true) :
    drainFrom (n + 1) c s = andThen (dispatchFrame (c + 1) f { s with
      env := { s.env with rx := rest, arrivals := more }, trace := s.trace ++ [.transportNext f] })
        (drainFrom n (c + 1)) := by
  rw [drainFrom, transportAvailable_of_cons h harrivals, andThen_next, hrx]
  show andThen (transportNext { s with env := { s.env with rx := f :: rest, arrivals := more } }) _ = _
  rw [transportNext_of_legal (s := { s with env := { s.env with rx := f :: rest, arrivals := more } }) h rfl hlen,
    andThen_next]

theorem toNat_succ_of_ne_zero {n : Byte} (h : n ≠ 0x00#8) : n.toNat = (n - 0x01#8).toNat + 1 := by
  have hpos : n.toNat ≠ 0 := fun hzero => h (byte_eq_of_toNat hzero)
  rw [BitVec.toNat_sub]
  simp
  omega

theorem exec_drain_of_frame {s : State} {n : Byte} {batch rest : List Frame} {f : Frame} {more : List (List Frame)}
    (h : AllReturn s) (hn : n ≠ 0x00#8) (harrivals : s.env.arrivals = batch :: more) (hrx : s.env.rx ++ batch = f :: rest)
    (hlen : legalLen f.len = true) :
    exec (.drain n) s = drainSteps f (n - 0x01#8) (retrieved f rest more s) := by
  have halike : Alike (drain n s) (drainSteps f (n - 0x01#8) (retrieved f rest more s)) := by
    rw [drain, toNat_succ_of_ne_zero hn,
      drainFrom_of_frame (s := atPhase (.p4Drain 0 .fh 0) s) _ 0 h harrivals hrx hlen]
    exact dispatchFrame_alike_drainSteps rfl ⟨s.seq, s.answer, rfl⟩
  refine Alike.eq (p := s.seq) (a := .nothing) ?_ (fun t ht => ⟨quietly_keepingPhase_seq ht, quietly_answer ht⟩)
    fun t => drainSteps_end
  exact halike.symm.keepingPhase_right.quietly_right.symm

/-! ### The obligations -/

/-- Settles O37: the free values are the frame and the Message, and the two runs go side by side. -/
theorem unwrittenFrameReadsAsAnyValue : Obligations.UnwrittenFrameReadsAsAnyValue := by
  intro s hheld
  refine ⟨Config.freeFrm s.lives, Config.freeMsg s.lives, fun i hi t ht => ?_⟩
  have hreads : ReadsAs s.frm s.msg
      { s with frameHeld := true, frm := Config.freeFrm s.lives, msg := Config.freeMsg s.lives } s :=
    ⟨⟨rfl, rfl, rfl⟩, by rw [← hheld]⟩
  have hfollows := exec_readsAs hi hreads
  rw [ht] at hfollows
  obtain ⟨t', hexec, -, rfl⟩ := hfollows
  exact hexec

/-- Settles O58: where the first transaction hangs, that one which returns is counted, and `exec_returning`. -/
theorem unreturningTransactionOnlyHangs : Obligations.UnreturningTransactionOnlyHangs := by
  refine ⟨fun s m opc a b c v n i hstall hlen hn hi => ?hangs, fun s m n hstall hlen => ?counted,
    fun i s => ⟨fun t ht => ?next, fun r hr => ?refused⟩⟩
  case hangs =>
    obtain rfl | rfl | rfl | rfl | rfl | rfl | rfl | rfl | rfl | rfl | rfl | ⟨hui, rfl | rfl | rfl | rfl⟩ := hi
    · exact (exec_send_of_le s hlen).trans (answeringSend_of_stall m hstall)
    · exact answeringSend_of_stall _ hstall
    · exact answeringSend_of_stall _ hstall
    · exact answeringSend_of_stall _ hstall
    · exact answeringSend_of_stall _ hstall
    · exact answeringSend_of_stall _ hstall
    · exact answeringSend_of_stall _ hstall
    · exact quietly_of_fault (negotiate_of_stall hstall)
    · exact quietly_of_fault (negotiate_of_stall hstall)
    · exact quietly_of_fault (revert_of_stall hstall)
    · exact quietly_of_fault (keepingPhase_of_fault (drain_of_stall hn hstall))
    · exact quietly_of_fault (indicateMode_of_stall v hui hstall)
    · exact quietly_of_fault (indicateActivity_of_stall hui hstall)
    · exact quietly_of_fault (indicateMode_of_stall .slim hui hstall)
    · refine quietly_of_fault ?_
      rw [confirm, indicateMode_of_stall .flim (s := storeCfg (.mode 0x01#8) { s with changing := false }) hui hstall,
        andThen_fault]
  case counted =>
    obtain ⟨ok, t, hsent, hcount⟩ := transportSend_of_counted m hstall
    refine ⟨answering (.bit ok) t, (exec_send_of_le s hlen).trans ?_, hcount⟩
    rw [hsent, answeringSend_next]
  case next =>
    have hfollows := exec_returning i s
    rw [ht] at hfollows
    obtain ⟨t', hexec, rfl⟩ := hfollows
    exact hexec
  case refused =>
    have hfollows := exec_returning i s
    rw [hr] at hfollows
    exact hfollows

end Sys2Proof.Machine
end

section
/-!
PROOF. The work on one frame (44_dispatcher_cycle.md R180 to R183): what it records whatever the services do, what it does
with no services and no callback, and the frame and action rows (30_encoding.md R84, R92).
-/
namespace Sys2Proof.Machine

/-! ### What the work on a frame records -/

/-- FRM and MSG hold this frame. -/
structure HoldsFrame (f : Frame) (s : State) : Prop where
  held : s.frameHeld = true
  frm_eq : s.frm = f
  msg_eq : s.msg = frameMessage f

/-- The events of the work on one frame: no retrieval, and a decoded-message handler gets the frame's own opcode and
Message, where the frame has an opcode. -/
def ofFrame (f : Frame) (e : Event) : Bool :=
  match e with
  | .transportNext _ => false
  | .svcMsg _ opc m => hasOpcode f && decide (opc = f.data.d0) && decide (m = frameMessage f)
  | _ => true

theorem ofFrame_of_modeEvent {f : Frame} {e : Event} (h : modeEvent e = true) : ofFrame f e = true := by
  cases e with
  | transportNext | svcMsg => cases h
  | _ => rfl

theorem not_retrieval_of_ofFrame {f : Frame} {e : Event} (h : ofFrame f e = true) : isRetrieval e = false := by
  cases e with
  | transportNext => cases h
  | _ => rfl

theorem not_decoded_of_ofFrame {f : Frame} (hopc : hasOpcode f = false) {e : Event} (h : ofFrame f e = true) :
    isDecodedCall e = false := by
  cases e with
  | svcMsg => simp [ofFrame, hopc] at h
  | _ => rfl

/-- While a frame is held, a pass holds it on and records events of that frame. -/
theorem keptByPasses_ofFrame (f : Frame) :
    KeptByPasses fun s t => HoldsFrame f s → HoldsFrame f t ∧ GrowsBy (ofFrame f) s t where
  refl _ hs := ⟨hs, .of_trace_eq rfl⟩
  trans _ _ _ hst htu hs :=
    have ⟨ht, hgrows⟩ := hst hs
    have ⟨hu, hgrows'⟩ := htu ht
    ⟨hu, hgrows.trans hgrows'⟩
  agents _ _ _ hs := ⟨{ hs with }, .of_trace_eq rfl⟩
  record _ s he hs := ⟨{ hs with }, growsBy_emit s (ofFrame_of_modeEvent he)⟩
  answer _ _ hs := ⟨{ hs with }, .of_trace_eq rfl⟩
  config _ _ hs := ⟨{ hs with }, .of_trace_eq rfl⟩
  flag _ _ hs := ⟨{ hs with }, .of_trace_eq rfl⟩
  timer _ _ _ hs := ⟨{ hs with }, .of_trace_eq rfl⟩
  put _ _ hs := ⟨{ hs with }, .of_trace_eq rfl⟩
  get _ hs := ⟨{ hs with }, .of_trace_eq rfl⟩
  clear _ hs := ⟨{ hs with }, .of_trace_eq rfl⟩
  drawn _ hs := ⟨{ hs with }, .of_trace_eq rfl⟩
  answered _ s hs := ⟨{ hs with }, growsBy_emit s rfl⟩
  phase _ _ hs := ⟨{ hs with }, .of_trace_eq rfl⟩

/-- A call on the way through a pass over the frame. -/
theorem called_ofFrame {f : Frame} (p : Seq) (s : State) {e : Event} (he : ofFrame f e = true) (hs : HoldsFrame f s) :
    HoldsFrame f (emit e (atPhase p s)) ∧ GrowsBy (ofFrame f) s (emit e (atPhase p s)) :=
  ⟨{ hs with }, growsBy_emit (atPhase p s) he⟩

theorem ofFrame_decodedCall {f : Frame} (hopc : hasOpcode f = true) {s : State} (hs : HoldsFrame f s) (i : Nat) :
    ofFrame f (decodedCall i s) = true := by
  rw [decodedCall_of_held hs.held, hs.msg_eq]
  simp [ofFrame, hopc, frameMessage]

theorem classTest_of_no_opcode (c : Nat) {f : Frame} (s : State) (h : hasOpcode f = false) :
    classTest c f s = .next s := by
  unfold classTest
  split
  · rfl
  · rw [if_neg]
    simp_all [hasOpcode]

theorem classTest_of_opcode (c : Nat) {f : Frame} (s : State) (h : hasOpcode f = true) :
    classTest c f s = decodedPass (atPhase (.p4Drain c .dec 0) s) := by
  obtain ⟨hext, hlen⟩ := (hasOpcode_iff f).mp h
  rw [classTest, if_neg (by simp [hext]), if_pos hlen]

theorem classTest_ofFrame {c : Nat} {f : Frame} {s t : State} (h : classTest c f s = .next t) (hs : HoldsFrame f s) :
    GrowsBy (ofFrame f) s t := by
  cases hopc : hasOpcode f with
  | true =>
    have hcall (i : Nat) (p : Seq) (u : State) (hu : HoldsFrame f u) := called_ofFrame p u (ofFrame_decodedCall hopc hu i) hu
    exact ((keptByPasses_ofFrame f).classTest hcall h hs).2
  | false =>
    rw [classTest_of_no_opcode c s hopc] at h
    cases h
    exact .of_trace_eq rfl

theorem dispatchFrame_ofFrame {c : Nat} {f : Frame} {s t : State} (h : dispatchFrame c f s = .next t) :
    GrowsBy (ofFrame f) s t := by
  have hkept := keptByPasses_ofFrame f
  obtain ⟨u, hu, h⟩ := andThen_eq_next.mp h
  obtain ⟨v, hv, h⟩ := andThen_eq_next.mp h
  obtain ⟨w, hw, h⟩ := andThen_eq_next.mp h
  have hheld : HoldsFrame f (atPhase (.p4Drain c .fh 0) (holdFrame f s)) := ⟨rfl, rfl, rfl⟩
  obtain ⟨hheld, hcallback⟩ := hkept.callbackStep (fun p u => called_ofFrame p u rfl) hu hheld
  obtain ⟨hheld, hraw⟩ := hkept.rawPass (fun _ p u => called_ofFrame p u rfl) hv { hheld with }
  obtain ⟨hheld, hshown⟩ := hkept.indicateActivity hw { hheld with }
  have hdecoded := classTest_ofFrame h hheld
  have hbegun : GrowsBy (ofFrame f) s (atPhase (.p4Drain c .fh 0) (holdFrame f s)) := .of_trace_eq rfl
  exact hbegun.trans (hcallback.trans (hraw.trans (hshown.trans hdecoded)))

/-- Every decoded-message handler that is invoked gets the opcode and the Message of the frame retrieved last, which is
neither extended nor empty. -/
def DecodesRetrieved (es : List Event) : Prop :=
  ∀ before j opc m after, es = before ++ .svcMsg j opc m :: after →
    ∃ earlier f between, before = earlier ++ .transportNext f :: between ∧ (∀ e ∈ between, isRetrieval e = false) ∧
      f.ext = false ∧ f.len.toNat ≠ 0 ∧ opc = f.data.d0 ∧ m = ⟨f.len, f.data⟩

theorem DecodesRetrieved.of_none {es : List Event} (h : ∀ e ∈ es, isDecodedCall e = false) : DecodesRetrieved es := by
  rintro before j opc m after rfl
  exact nomatch h (.svcMsg j opc m) (by simp)

theorem DecodesRetrieved.append {es fs : List Event} (hes : DecodesRetrieved es) (hfs : DecodesRetrieved fs) :
    DecodesRetrieved (es ++ fs) := by
  intro before j opc m after h
  rcases List.append_eq_append_iff.mp h with ⟨mid, rfl, hmid⟩ | ⟨mid, hes', hmid⟩
  · obtain ⟨earlier, f, between, rfl, hbetween, hf⟩ := hfs mid j opc m after hmid
    exact ⟨es ++ earlier, f, between, by simp, hbetween, hf⟩
  · cases mid with
    | nil =>
      obtain ⟨earlier, f, between, hnil, -⟩ := hfs [] j opc m after hmid.symm
      simp at hnil
    | cons e mid =>
      rw [List.cons_append, List.cons.injEq] at hmid
      exact hes before j opc m mid (by rw [hes', hmid.1])

/-- The retrieval of a frame and the work on it. -/
theorem DecodesRetrieved.frame {f : Frame} {es : List Event} (h : ∀ e ∈ es, ofFrame f e = true) :
    DecodesRetrieved (.transportNext f :: es) := by
  intro before j opc m after heq
  cases before with
  | nil => simp at heq
  | cons e between =>
    rw [List.cons_append, List.cons.injEq] at heq
    obtain ⟨rfl, rfl⟩ := heq
    have hcall : ofFrame f (.svcMsg j opc m) = true := h _ (by simp)
    simp only [ofFrame, Bool.and_eq_true, decide_eq_true_eq] at hcall
    obtain ⟨⟨hopc, rfl⟩, rfl⟩ := hcall
    obtain ⟨hext, hlen⟩ := (hasOpcode_iff f).mp hopc
    exact ⟨[], f, between, rfl, fun e he => not_retrieval_of_ofFrame (h e (by simp [he])), hext, hlen, rfl, rfl⟩

/-- What the drain loop records: at most as many retrievals as its bound, and decoded calls of the frame retrieved last. -/
theorem drainFrom_records {n c : Nat} {s t : State} (h : drainFrom n c s = .next t) :
    ∃ es, t.trace = s.trace ++ es ∧ (es.filter isRetrieval).length ≤ n ∧ DecodesRetrieved es := by
  induction n generalizing c s with
  | zero => cases h; exact ⟨[], by simp, Nat.le_refl 0, .of_none (by simp)⟩
  | succ n ih =>
    obtain ⟨query, hquery, h⟩ := andThen_eq_next.mp h
    obtain ⟨-, hasked, -⟩ := transportAvailable_eq_next hquery
    have hasked : query.2.trace = s.trace := by rw [hasked]
    split at h
    · obtain ⟨⟨f, u⟩, hu, h⟩ := andThen_eq_next.mp h
      obtain ⟨v, hv, h⟩ := andThen_eq_next.mp h
      obtain ⟨_, -, -, hu⟩ := transportNext_eq_next hu
      have hretrieved : u.trace = s.trace ++ [.transportNext f] := by rw [hu, ← hasked]
      obtain ⟨es, hes, hframe⟩ := dispatchFrame_ofFrame hv
      obtain ⟨fs, hfs, hcount, hdecodes⟩ := ih h
      refine ⟨.transportNext f :: es ++ fs, ?_, ?_, (DecodesRetrieved.frame hframe).append hdecodes⟩
      · simp only at hes
        rw [hfs, hes, hretrieved]
        simp
      · have hnone : es.filter isRetrieval = [] :=
          List.filter_eq_nil_iff.mpr fun e he => by simp [not_retrieval_of_ofFrame (hframe e he)]
        simp only [List.cons_append, List.filter_cons, List.filter_append, hnone, List.nil_append]
        exact Nat.succ_le_succ hcount
    · cases h
      exact ⟨[], by simp [hasked], Nat.zero_le _, .of_none (by simp)⟩

theorem drain_records {n : Byte} {s t : State} (h : drain n s = .next t) :
    ∃ es, t.trace = s.trace ++ es ∧ (es.filter isRetrieval).length ≤ n.toNat ∧ DecodesRetrieved es :=
  drainFrom_records (s := atPhase (.p4Drain 0 .fh 0) s) h

/-- A step of the cycle outside the drain invokes no decoded-message handler. -/
theorem decodesRetrieved_of_unseen {s t : State}
    (h : SameFrame s t ∧ GrowsBy (fun e => !isDecodedCall e) s t) :
    ∃ es, t.trace = s.trace ++ es ∧ DecodesRetrieved es := by
  obtain ⟨-, es, hes, hnone⟩ := h
  exact ⟨es, hes, .of_none fun e he => by simpa using hnone e he⟩

theorem keptByPasses_no_decoded :
    KeptByPasses fun s t => SameFrame s t ∧ GrowsBy (fun e => !isDecodedCall e) s t :=
  keptByPasses_unseen (fun e => by cases e <;> simp [modeEvent, isDecodedCall]) fun _ => rfl

theorem pollUi_trace {s t : State} (h : pollUi s = .next t) : ∃ es, t.trace = s.trace ++ es ∧ DecodesRetrieved es := by
  unfold pollUi at h
  split at h
  · dsimp only at h
    split at h
    · rename_i a _
      cases h
      exact ⟨[.uiRun, .uiRequestedAction a], by simp, .of_none (by simp [isDecodedCall])⟩
    · cases h
  · cases h
    exact ⟨[], by simp, .of_none (by simp)⟩

theorem cycle_decodes {n : Byte} {s t : State} (h : cycle n s = .next t) :
    ∃ es, t.trace = s.trace ++ es ∧ DecodesRetrieved es := by
  have hkept := keptByPasses_no_decoded
  obtain ⟨u, hu, h⟩ := andThen_eq_next.mp h
  obtain ⟨v, hv, h⟩ := andThen_eq_next.mp h
  obtain ⟨w, hw, h⟩ := andThen_eq_next.mp h
  obtain ⟨x, hx, h⟩ := andThen_eq_next.mp h
  cases h
  have hhook (i : Nat) (a : Byte) (r : State) :
      SameFrame r (emit (.svcHousekeep i a) r) ∧ GrowsBy (fun e => !isDecodedCall e) r (emit (.svcHousekeep i a) r) :=
    ⟨⟨rfl, rfl, rfl, rfl⟩, growsBy_emit r rfl⟩
  obtain ⟨polled, hpolled, hpolls⟩ := pollUi_trace hu
  obtain ⟨acted, hacted, hacts⟩ := decodesRetrieved_of_unseen (hkept.actOn hhook hv)
  obtain ⟨drained, hdrained, -, hdrains⟩ := drain_records hw
  obtain ⟨judged, hjudged, hjudges⟩ := decodesRetrieved_of_unseen (hkept.timeoutCheck hx)
  refine ⟨polled ++ (acted ++ (drained ++ judged)), ?_, hpolls.append (hacts.append (hdrains.append hjudges))⟩
  simp only [atPhase_trace] at hpolled hjudged ⊢
  simp only [hjudged, hdrained, hacted, hpolled, List.append_assoc]

/-! ### No services and no callback -/

theorem serviceCount_of_nil {s : State} (h : s.par.services = []) : serviceCount s = 0 := by
  simp [serviceCount, h]

theorem rawPass_of_bare {s : State} (h : s.par.services = []) : rawPass s = .next s := by
  rw [rawPass_eq, serviceCount_of_nil h, passFrom]

theorem decodedPass_of_bare {s : State} (h : s.par.services = []) : decodedPass s = .next s := by
  rw [decodedPass_eq, serviceCount_of_nil h, passFrom, ite_self]

theorem housekeep_of_bare (a : Byte) {s : State} (h : s.par.services = []) : housekeep a s = .next s := by
  rw [housekeep, ← serviceCount, serviceCount_of_nil h, housekeepFrom]

theorem classTest_of_bare (c : Nat) (f : Frame) {s : State} (h : s.par.services = []) :
    ∃ p, classTest c f s = .next (atPhase p s) := by
  cases hopc : hasOpcode f with
  | true => exact ⟨_, (classTest_of_opcode c s hopc).trans (decodedPass_of_bare h)⟩
  | false => exact ⟨s.seq, classTest_of_no_opcode c s hopc⟩

/-- With no services and no callback the work on a frame is to hold it and to indicate the activity. -/
theorem dispatchFrame_of_bare (c : Nat) (f : Frame) {s : State} (hservices : s.par.services = [])
    (hcallback : s.par.callbackPresent = false) :
    dispatchFrame c f s =
      andThen (indicateActivity (atPhase (.p4Drain c .activity 0) (holdFrame f s))) (classTest c f) := by
  rw [dispatchFrame, callbackStep_of_absent (s := atPhase (.p4Drain c .fh 0) (holdFrame f s)) hcallback, andThen_next,
    rawPass_of_bare (s := atPhase (.p4Drain c .raw 0) (atPhase (.p4Drain c .fh 0) (holdFrame f s))) hservices,
    andThen_next]
  rfl

theorem dispatchFrame_of_bare_of_allReturn (c : Nat) (f : Frame) {s : State} (h : AllReturn s)
    (hservices : s.par.services = []) (hcallback : s.par.callbackPresent = false) :
    ∃ p, dispatchFrame c f s =
      .next { holdFrame f s with seq := p, trace := s.trace ++ shownActivity s } := by
  obtain ⟨p, hp⟩ := classTest_of_bare c f (s := { holdFrame f s with
    seq := .p4Drain c .activity 0, trace := s.trace ++ shownActivity s }) hservices
  refine ⟨p, ?_⟩
  rw [dispatchFrame_of_bare c f hservices hcallback,
    indicateActivity_of_allReturn (s := atPhase (.p4Drain c .activity 0) (holdFrame f s)) h, andThen_next]
  exact hp

/-- Nothing of a bare block's work asks for the queue. -/
theorem keptByModes_queue : KeptByModes fun s t => t.par = s.par ∧ t.queue = s.queue where
  refl _ := ⟨rfl, rfl⟩
  trans := fun _ _ _ ⟨hpar, hqueue⟩ ⟨hpar', hqueue'⟩ => ⟨hpar'.trans hpar, hqueue'.trans hqueue⟩
  agents _ _ _ := ⟨rfl, rfl⟩
  record _ _ _ := ⟨rfl, rfl⟩
  answer _ _ := ⟨rfl, rfl⟩
  config _ _ := ⟨rfl, rfl⟩
  flag _ _ := ⟨rfl, rfl⟩
  timer _ _ _ := ⟨rfl, rfl⟩

theorem dispatchFrame_queue {c : Nat} {f : Frame} {s t : State} (hservices : s.par.services = [])
    (hcallback : s.par.callbackPresent = false) (h : dispatchFrame c f s = .next t) :
    t.par = s.par ∧ t.queue = s.queue := by
  rw [dispatchFrame_of_bare c f hservices hcallback] at h
  obtain ⟨u, hu, h⟩ := andThen_eq_next.mp h
  obtain ⟨hpar, hqueue⟩ := keptByModes_queue.indicateActivity hu
  obtain ⟨p, hp⟩ := classTest_of_bare c f (hpar.symm ▸ hservices : u.par.services = [])
  rw [hp] at h
  cases h
  exact ⟨hpar, hqueue⟩

theorem drainFrom_queue {n c : Nat} {s t : State} (hservices : s.par.services = [])
    (hcallback : s.par.callbackPresent = false) (h : drainFrom n c s = .next t) :
    t.par = s.par ∧ t.queue = s.queue := by
  induction n generalizing c s with
  | zero => cases h; exact ⟨rfl, rfl⟩
  | succ n ih =>
    obtain ⟨query, hquery, h⟩ := andThen_eq_next.mp h
    obtain ⟨-, hasked, -⟩ := transportAvailable_eq_next hquery
    have hpar : query.2.par = s.par := by rw [hasked]
    have hqueue : query.2.queue = s.queue := by rw [hasked]
    split at h
    · obtain ⟨⟨f, u⟩, hu, h⟩ := andThen_eq_next.mp h
      obtain ⟨v, hv, h⟩ := andThen_eq_next.mp h
      obtain ⟨_, -, -, hretrieved⟩ := transportNext_eq_next hu
      have hupar : u.par = s.par := by rw [hretrieved, ← hpar]
      have huqueue : u.queue = s.queue := by rw [hretrieved, ← hqueue]
      obtain ⟨hvpar, hvqueue⟩ := dispatchFrame_queue (hupar ▸ hservices) (hupar ▸ hcallback) hv
      have hpar' : v.par = s.par := hvpar.trans hupar
      obtain ⟨htpar, htqueue⟩ := ih (hpar' ▸ hservices) (hpar' ▸ hcallback) h
      exact ⟨htpar.trans hpar', htqueue.trans (hvqueue.trans huqueue)⟩
    · cases h
      exact ⟨hpar, hqueue⟩

theorem pollUi_queue {s t : State} (h : pollUi s = .next t) : t.par = s.par ∧ t.queue = s.queue := by
  unfold pollUi at h
  split at h
  · dsimp only at h
    split at h
    · cases h; exact ⟨rfl, rfl⟩
    · cases h
  · cases h; exact ⟨rfl, rfl⟩

theorem cycle_queue {n : Byte} {s t : State} (hservices : s.par.services = [])
    (hcallback : s.par.callbackPresent = false) (h : cycle n s = .next t) : t.queue = s.queue := by
  obtain ⟨u, hu, h⟩ := andThen_eq_next.mp h
  obtain ⟨v, hv, h⟩ := andThen_eq_next.mp h
  obtain ⟨w, hw, h⟩ := andThen_eq_next.mp h
  obtain ⟨x, hx, h⟩ := andThen_eq_next.mp h
  cases h
  obtain ⟨hupar, huqueue⟩ := pollUi_queue hu
  obtain ⟨r, hr, hv⟩ := andThen_eq_next.mp hv
  obtain ⟨hrpar, hrqueue⟩ := keptByModes_queue.applyAction hr
  have hpar : r.par = s.par := hrpar.trans hupar
  have hbare : (atPhase (.p3House 0) r).par.services = [] := hpar.symm ▸ hservices
  rw [housekeep_of_bare _ hbare] at hv
  cases hv
  obtain ⟨hwpar, hwqueue⟩ :=
    drainFrom_queue (s := atPhase (.p4Drain 0 .fh 0) (atPhase (.p3House 0) r)) hbare (hpar.symm ▸ hcallback) hw
  obtain ⟨-, hxqueue⟩ := keptByModes_queue.timeoutCheck hx
  exact hxqueue.trans (hwqueue.trans (hrqueue.trans huqueue))

/-! ### A bare drain over a transport that gets no further frame -/

/-- The end of such a drain: the first `n` frames, or all if fewer, are retrieved in order, the rest stay, and FRM and MSG
hold the last. -/
structure DrainedBare (n : Nat) (s t : State) : Prop where
  rx_eq : t.env.rx = s.env.rx.drop n
  trace_eq : t.trace = s.trace ++ (s.env.rx.take n).flatMap fun f => .transportNext f :: shownActivity s
  holds_last : ∀ f, (s.env.rx.take n).getLast? = some f → t.frm = f ∧ t.msg = ⟨f.len, f.data⟩ ∧ t.frameHeld = true
  holds_on : s.env.rx.take n = [] → t.frm = s.frm ∧ t.msg = s.msg ∧ t.frameHeld = s.frameHeld
  only : t = { s with
    seq := t.seq, env := { s.env with rx := t.env.rx, arrivals := t.env.arrivals }
    trace := t.trace, frm := t.frm, msg := t.msg, frameHeld := t.frameHeld }

theorem drainFrom_of_bare {n c : Nat} {s : State} (hreturn : AllReturn s) (hservices : s.par.services = [])
    (hcallback : s.par.callbackPresent = false) (henough : n ≤ s.env.arrivals.length)
    (hnone : ∀ batch ∈ s.env.arrivals, batch = []) (hlawful : lawfulFrames s.env.rx = true) :
    ∃ t, drainFrom n c s = .next t ∧ DrainedBare n s t := by
  induction n generalizing c s with
  | zero => exact ⟨s, rfl, by simp, by simp, by simp, by simp, rfl⟩
  | succ n ih =>
    obtain ⟨batch, more, harrivals⟩ := List.exists_cons_of_length_pos (l := s.env.arrivals) (by omega)
    rw [harrivals] at hnone henough
    obtain rfl : batch = [] := hnone batch (by simp)
    cases hrx : s.env.rx with
    | nil =>
      exact ⟨_, drainFrom_of_none n c hreturn harrivals (by rw [hrx]; rfl),
        by simp [hrx], by simp [hrx], by simp [hrx], by simp [hrx], rfl⟩
    | cons f rest =>
      simp only [lawfulFrames, hrx, List.all_cons, Bool.and_eq_true] at hlawful
      obtain ⟨hlen, hrest⟩ := hlawful
      obtain ⟨p, hp⟩ := dispatchFrame_of_bare_of_allReturn (c + 1) f (s := { s with
        env := { s.env with rx := rest, arrivals := more }, trace := s.trace ++ [.transportNext f] })
        hreturn hservices hcallback
      obtain ⟨t, ht, hdrained⟩ := ih (c := c + 1) (s := { s with
        env := { s.env with rx := rest, arrivals := more }, frm := f, msg := frameMessage f, frameHeld := true, seq := p
        trace := s.trace ++ [.transportNext f] ++ shownActivity s })
        hreturn hservices hcallback (by simpa using henough) (fun b hb => hnone b (by simp [hb])) hrest
      have hturn := drainFrom_of_frame n c hreturn harrivals (by rw [hrx, List.append_nil]) hlen
      refine ⟨t, hturn.trans ((congrArg (andThen · _) hp).trans ht), ?_, ?_, ?_, ?_, hdrained.only⟩
      · rw [hdrained.rx_eq, hrx]; rfl
      · rw [hdrained.trace_eq, hrx]
        simp [shownActivity]
      · intro g hg
        rw [hrx, List.take_succ_cons, List.getLast?_cons] at hg
        cases hlast : (rest.take n).getLast? with
        | some g' =>
          obtain rfl : g' = g := by simpa [hlast] using hg
          exact hdrained.holds_last g' hlast
        | none =>
          obtain rfl : f = g := by simpa [hlast] using hg
          exact hdrained.holds_on (List.getLast?_eq_none_iff.mp hlast)
      · simp [hrx]

/-! ### The frame rows (30_encoding.md R84; log 12) -/

theorem receive_of_legal {f : Frame} (s : State) (h : legalLen f.len = true) :
    receive f s = quietly (keepingPhase (dispatchFrame (drainedCount s) f)) s :=
  if_pos h

/-- The row of a frame's class is the work on that frame. -/
theorem exec_frameRow {i : Instr} {f : Frame} (s : State)
    (h : i = .fExt f.rtr f.len f.data f.hdr ∧ f.ext = true ∨
      i = .fZero f.rtr f.data f.hdr ∧ f.ext = false ∧ f.len.toNat = 0 ∨
      i = .fStd f.rtr f.len f.data f.hdr ∧ f.ext = false ∧ f.len.toNat ≠ 0) : exec i s = receive f s := by
  obtain ⟨ext, rtr, len, data, hdr⟩ := f
  obtain ⟨rfl, hext⟩ | ⟨rfl, hext, hlen⟩ | ⟨rfl, hext, -⟩ := h
  · obtain rfl : ext = true := hext
    rfl
  · obtain rfl : ext = false := hext
    obtain rfl : len = 0#4 := BitVec.eq_of_toNat_eq hlen
    rfl
  · obtain rfl : ext = false := hext
    rfl

/-- A standard frame with no callback and services that answer at once. -/
theorem dispatchFrame_of_answers (c : Nat) {f : Frame} {s : State} {raw dec : List Bool} {more : List Behaviour}
    (hreturn : AllReturn s) (hcallback : s.par.callbackPresent = false) (hopc : hasOpcode f = true)
    (hraw : raw.length = serviceCount s) (hdec : dec.length = serviceCount s)
    (h : s.env.behaviours =
      answersAtOnce (raw.take (invokedCount raw)) ++ (answersAtOnce (dec.take (invokedCount dec)) ++ more)) :
    ∃ p, dispatchFrame c f s = .next { holdFrame f s with
      seq := p, env := { s.env with behaviours := more }
      trace := s.trace ++
        (List.range (invokedCount raw)).flatMap (fun j => [Event.svcRaw j f, .handlerAnswer (raw.getD j false)]) ++
        shownActivity s ++
        (List.range (invokedCount dec)).flatMap (fun j =>
          [Event.svcMsg j f.data.d0 ⟨f.len, f.data⟩, .handlerAnswer (dec.getD j false)]) } := by
  obtain ⟨p, hp⟩ :=
    rawPass_of_answers (s := atPhase (.p4Drain c .raw 0) (atPhase (.p4Drain c .fh 0) (holdFrame f s))) hraw h
  have hshown := indicateActivity_of_allReturn (s := { holdFrame f s with
    seq := .p4Drain c .activity 0
    env := { s.env with behaviours := answersAtOnce (dec.take (invokedCount dec)) ++ more }
    trace := s.trace ++ (List.range (invokedCount raw)).flatMap fun j =>
      [Event.svcRaw j f, .handlerAnswer (raw.getD j false)] }) hreturn
  obtain ⟨q, hq⟩ := decodedPass_of_answers (s := { holdFrame f s with
    seq := .p4Drain c .dec 0
    env := { s.env with behaviours := answersAtOnce (dec.take (invokedCount dec)) ++ more }
    trace := s.trace ++ (List.range (invokedCount raw)).flatMap (fun j =>
      [Event.svcRaw j f, .handlerAnswer (raw.getD j false)]) ++ shownActivity s }) hdec hopc rfl
  refine ⟨q, ?_⟩
  rw [dispatchFrame, callbackStep_of_absent (s := atPhase (.p4Drain c .fh 0) (holdFrame f s)) hcallback, andThen_next, hp,
    andThen_next]
  refine (congrArg (andThen · _) hshown).trans ?_
  exact (classTest_of_opcode c _ hopc).trans hq

/-! ### The action rows (30_encoding.md R92; log 14) -/

/-- The mode machine leaves the parameters, the sequencer and the outside agents' other scripts. -/
theorem keptByModes_agents : KeptByModes fun s t => t.par = s.par ∧ t.seq = s.seq ∧ AgentsGoOn s.env t.env where
  refl s := ⟨rfl, rfl, .refl s.env⟩
  trans := fun _ _ _ ⟨hpar, hseq, henv⟩ ⟨hpar', hseq', henv'⟩ =>
    ⟨hpar'.trans hpar, hseq'.trans hseq, henv.trans henv'⟩
  agents _ _ h := ⟨rfl, rfl, h⟩
  record _ s _ := ⟨rfl, rfl, .refl s.env⟩
  answer _ s := ⟨rfl, rfl, .refl s.env⟩
  config _ s := ⟨rfl, rfl, .refl s.env⟩
  flag _ s := ⟨rfl, rfl, .refl s.env⟩
  timer _ s _ := ⟨rfl, rfl, .refl s.env⟩

theorem exec_actionRow {i : Instr} {a : Byte} (s : State)
    (h : i = .actNone a ∧ (a.toNat = 0 ∨ 3 < a.toNat) ∨ i = .actChangeMode ∧ a = 0x01#8 ∨
      i = .actRenegotiate ∧ a = 0x02#8 ∨ i = .actEnumeration ∧ a = 0x03#8) : exec i s = reportedAction a s := by
  obtain ⟨rfl, -⟩ | ⟨rfl, rfl⟩ | ⟨rfl, rfl⟩ | ⟨rfl, rfl⟩ := h <;> rfl

/-- Steps 2 and 3 of the cycle on a latched action, with hooks that return at once. -/
theorem actOn_of_answers {s u : State} {answers : List Bool} {more : List Behaviour}
    (happlied : applyAction s.act s = .next u) (hlen : answers.length = serviceCount s)
    (h : s.env.behaviours = answersAtOnce answers ++ more) :
    ∃ p b, actOn s = .next { u with
      seq := p, answer := b, env := { u.env with behaviours := more }
      trace := u.trace ++ (List.range (serviceCount s)).map fun j => Event.svcHousekeep j s.act } := by
  have m := mirror_sameButPhase
  have halike : Alike (applyAction s.act s) (applyAction s.act (atPhase .p2Act s)) :=
    .of_mirror (fun _ _ => m.applyAction s.act) (fun _ _ => m.applyAction s.act) ⟨.p2Act, s.answer, rfl⟩
  have hforth := halike.forth
  rw [happlied] at hforth
  obtain ⟨v, hv, q, b, rfl⟩ := hforth
  obtain ⟨hpar, -, hagents⟩ := keptByModes_agents.applyAction happlied
  have hcount : serviceCount u = serviceCount s := congrArg (fun p : Params => p.services.length) hpar
  obtain ⟨p, hp⟩ := housekeep_of_answers s.act (s := atPhase (.p3House 0) { u with seq := q, answer := b })
    (hlen.trans hcount.symm) (hagents.behaviours_eq.trans h)
  refine ⟨p, b, ?_⟩
  rw [actOn, hv, andThen_next, hp]
  show Host.Outcome.next { u with
    seq := p, answer := b, env := { u.env with behaviours := more }
    trace := u.trace ++ (List.range (serviceCount u)).map fun j => Event.svcHousekeep j s.act } = _
  rw [hcount]

/-! ### The obligations -/

/-- Settles O39: the drain loop decodes only what it retrieved last, the other steps decode nothing, and a row's frame
without an opcode is not decoded. -/
theorem extendedAndEmptyFramesAreNeverDecoded : Obligations.ExtendedAndEmptyFramesAreNeverDecoded := by
  refine ⟨fun s t n i hi h => ?_, fun s t rtr len data hdr i hi h => ?_⟩
  · obtain rfl | rfl := hi
    · obtain ⟨u, hu, htrace⟩ := quietly_keepingPhase_trace h
      obtain ⟨es, hes, -, hdecodes⟩ := drain_records hu
      exact ⟨es, htrace.trans hes, hdecodes⟩
    · by_cases hidle : s.seq = .idle
      · rw [exec_process_of_idle n hidle] at h
        obtain ⟨u, hu, rfl⟩ := quietly_eq_next.mp h
        exact (cycle_decodes hu :)
      · cases (exec_process_of_not_idle n hidle).symm.trans h
  · have hrow : ∃ f, hasOpcode f = false ∧ exec i s = receive f s := by
      obtain rfl | rfl := hi
      · exact ⟨⟨true, rtr, len, data, hdr⟩, rfl, rfl⟩
      · exact ⟨⟨false, rtr, 0#4, data, hdr⟩, rfl, rfl⟩
    obtain ⟨f, hopc, hexec⟩ := hrow
    rw [hexec, receive] at h
    split at h
    · obtain ⟨u, hu, htrace⟩ := quietly_keepingPhase_trace h
      obtain ⟨es, hes, hframe⟩ := dispatchFrame_ofFrame hu
      exact ⟨es, htrace.trans hes, fun e he => not_decoded_of_ofFrame hopc (hframe e he)⟩
    · cases h

/-- Settles O41: one turn of the loop, whose frame and rest are `drainSteps`; and the bare drain, by its length. -/
theorem drainDispatchesFrameByFrame : Obligations.DrainDispatchesFrameByFrame := by
  refine ⟨fun s n batch more hreturn hn harrivals => ?_, fun s n hreturn hservices hcallback henough hnone hlawful => ?_⟩
  · have hturns : drain n s = drainFrom ((n - 0x01#8).toNat + 1) 0 (atPhase (.p4Drain 0 .fh 0) s) := by
      rw [drain, toNat_succ_of_ne_zero hn]
    cases hrx : s.env.rx ++ batch with
    | nil => exact quietly_keepingPhase_of_next (hturns.trans (drainFrom_of_none _ 0 hreturn harrivals hrx))
    | cons f rest =>
      by_cases hlong : 8 < f.len.toNat
      · have hillegal : legalLen f.len = false :=
          Bool.eq_false_iff.mpr fun h => Nat.not_le_of_gt hlong ((legalLen_iff f.len).mp h)
        have hrefused := hturns.trans (drainFrom_of_illegal _ 0 hreturn harrivals hrx hillegal)
        exact (if_pos hlong).mpr (quietly_of_refused (keepingPhase_of_refused hrefused))
      · have hlegal : legalLen f.len = true := (legalLen_iff f.len).mpr (Nat.le_of_not_lt hlong)
        exact (if_neg hlong).mpr (exec_drain_of_frame hreturn hn harrivals hrx hlegal)
  · obtain ⟨t, ht, hdrained⟩ := drainFrom_of_bare (c := 0) (s := atPhase (.p4Drain 0 .fh 0) s) hreturn hservices hcallback
      henough hnone hlawful
    refine ⟨_, quietly_keepingPhase_of_next ht, hdrained.rx_eq, hdrained.trace_eq, hdrained.holds_last, hdrained.holds_on, ?_⟩
    rw [hdrained.only]
    rfl

/-- Settles O42: the count of `drain_records`; with the bound 0 the loop does not begin. -/
theorem drainIsBounded : Obligations.DrainIsBounded := by
  refine ⟨fun s => rfl, fun s t n h => ?_⟩
  obtain ⟨u, hu, htrace⟩ := quietly_keepingPhase_trace h
  obtain ⟨es, hes, hcount, -⟩ := drain_records hu
  exact ⟨es, htrace.trans hes, hcount⟩

/-- Settles O49: the work on a frame of a bare block. -/
theorem frameRowsHoldTheFrame : Obligations.FrameRowsHoldTheFrame := by
  intro s f i hreturn hservices hcallback hlen hrow
  obtain ⟨p, hp⟩ := dispatchFrame_of_bare_of_allReturn (drainedCount s) f hreturn hservices hcallback
  rw [exec_frameRow s hrow, receive_of_legal s ((legalLen_iff f.len).mpr hlen)]
  exact quietly_keepingPhase_of_next hp

/-- Settles O50: the two passes of `dispatchFrame_of_answers`, each with its own answers. -/
theorem passesAreIndependent : Obligations.PassesAreIndependent := by
  intro s f raw dec more hreturn hcallback hext hne hlen hraw hdec h
  rw [List.append_assoc] at h
  obtain ⟨p, hp⟩ := dispatchFrame_of_answers (drainedCount s) hreturn hcallback ((hasOpcode_iff f).mpr ⟨hext, hne⟩) hraw
    hdec h
  rw [exec_frameRow s (.inr (.inr ⟨rfl, hext, hne⟩)), receive_of_legal s ((legalLen_iff f.len).mpr hlen)]
  exact quietly_keepingPhase_of_next hp

/-- Settles O51: steps 2 and 3 on the latched action, with the sequencer put back. -/
theorem actionRowsAreAppliedAndPassedOn : Obligations.ActionRowsAreAppliedAndPassedOn := by
  intro s a i answers more hreturn hlen h hrow
  obtain ⟨u, hu⟩ := applyAction_completes (s := { s with act := a }) hreturn a
  obtain ⟨-, hseq, -⟩ := keptByModes_agents.applyAction hu
  obtain ⟨p, b, hacted⟩ := actOn_of_answers (s := { s with act := a }) hu hlen h
  refine ⟨answering .nothing u, quietly_of_next hu, ?_, fun hchange hrenegotiate => ?_⟩
  · rw [exec_actionRow s hrow]
    refine (quietly_keepingPhase_of_next hacted).trans ?_
    show Host.Outcome.next { u with
      seq := s.seq, answer := .nothing, env := { u.env with behaviours := more }
      trace := u.trace ++ (List.range (serviceCount s)).map fun j => Event.svcHousekeep j a } = _
    rw [← (show u.seq = s.seq from hseq)]
    rfl
  · rw [applyAction_ignored _ hchange hrenegotiate] at hu
    cases hu
    rfl

/-- Settles O60: the updates of sending and of the mode machine leave the queue, and a bare block invokes nobody. -/
theorem queueIsALeaf : Obligations.QueueIsALeaf := by
  intro s t m b v i h hi
  have hkept := keptByModes_queue
  obtain rfl | rfl | rfl | rfl | rfl | rfl | rfl | rfl | rfl | rfl | rfl | rfl | rfl | rfl | rfl |
    ⟨hservices, hcallback, rfl | rfl | rfl⟩ := hi
  · exact (hkept.execSend h).2
  · exact (hkept.answeringSend h).2
  · exact (hkept.answeringSend h).2
  · exact (hkept.answeringSend h).2
  · exact (hkept.answeringSend h).2
  · exact (hkept.answeringSend h).2
  · exact (hkept.quietly (fun _ => hkept.negotiate) h).2
  · exact (hkept.quietly (fun _ => hkept.negotiate) h).2
  · exact (hkept.quietly (fun _ => hkept.timeoutCheck) h).2
  · exact (hkept.quietly (fun _ => hkept.revert) h).2
  · exact (hkept.quietly (fun _ => hkept.setSlim) h).2
  · exact (hkept.quietly (fun _ => hkept.applyAction) h).2
  · exact (hkept.quietly (fun _ => hkept.indicateMode) h).2
  · obtain ⟨u, hu, ht⟩ := andThen_eq_next.mp h
    cases ht
    exact (pollUi_queue hu).2
  · exact (hkept.quietly (fun _ => hkept.indicateActivity) h).2
  · by_cases hidle : s.seq = .idle
    · rw [exec_process_of_idle b hidle] at h
      obtain ⟨u, hu, rfl⟩ := quietly_eq_next.mp h
      exact (cycle_queue hservices hcallback hu :)
    · cases (exec_process_of_not_idle b hidle).symm.trans h
  · obtain ⟨u, hu, rfl⟩ := quietly_eq_next.mp h
    obtain ⟨w, hw, rfl⟩ := keepingPhase_eq_next.mp hu
    exact (drainFrom_queue (s := atPhase (.p4Drain 0 .fh 0) s) hservices hcallback hw).2
  · obtain ⟨u, hu, rfl⟩ := quietly_eq_next.mp h
    have hnone : findService s.par.svcIdCan s.par.services = none := by rw [hservices]; rfl
    rw [confirm_congr_of_none invokeHook .next hnone] at hu
    exact (hkept.confirm (fun a b hab => by cases hab; exact ⟨rfl, rfl⟩) hu).2

end Sys2Proof.Machine
end

section
/-!
PROOF. The cycle of a block with a UI, no services, no callback and an empty transport (44_dispatcher_cycle.md R175), and a
negotiation that nobody confirms (42_mode_fsm.md R162).
-/
namespace Sys2Proof.Machine

/-! ### A bare cycle -/

/-- Other frames to come. -/
def withArrivals (arrivals : List (List Frame)) (s : State) : State :=
  { s with env := { s.env with arrivals := arrivals } }

theorem clockNow_withArrivals (arrivals : List (List Frame)) (s : State) :
    clockNow (withArrivals arrivals s) = ((clockNow s).1, withArrivals arrivals (clockNow s).2) := by
  cases hticks : s.env.ticks <;> simp [clockNow, drawTick, withArrivals, hticks, emit]

/-- The timeout check does not ask what frames will come. -/
theorem timeoutCheck_withArrivals (arrivals : List (List Frame)) {s t : State} (hreturn : AllReturn s)
    (h : timeoutCheck s = .next t) : timeoutCheck (withArrivals arrivals s) = .next (withArrivals arrivals t) := by
  have hclock := clockNow_withArrivals arrivals s
  cases hchanging : s.changing with
  | false =>
    rw [timeoutCheck_of_stable hchanging] at h
    cases h
    exact timeoutCheck_of_stable hchanging
  | true =>
    by_cases hpending : subModulo s.par.clockWidth (clockNow s).1 s.started < s.par.timeoutMs
    · rw [timeoutCheck_of_pending hchanging hpending] at h
      cases h
      rw [timeoutCheck_of_pending (s := withArrivals arrivals s) hchanging (by rw [hclock]; exact hpending), hclock]
    · have hexpired := Nat.le_of_not_lt hpending
      rw [timeoutCheck_of_expired_of_allReturn hreturn hchanging hexpired] at h
      cases h
      rw [timeoutCheck_of_expired_of_allReturn (s := withArrivals arrivals s) hreturn hchanging
        (by rw [hclock]; exact hexpired), hclock]
      rfl

/-- The state in which the UI has been polled. -/
def polled (a : Byte) (rest : List UiTurn) (s : State) : State :=
  { s with
    act := a, answer := .byte a, env := { s.env with turns := rest }
    trace := s.trace ++ [.uiRun, .uiRequestedAction a] }

theorem exec_pUi_of_answers {s : State} {a : Byte} {rest : List UiTurn} (hui : s.par.uiPresent = true)
    (hturn : s.env.turns = .answers a :: rest) : exec .pUi s = .next (polled a rest s) := by
  rw [exec_pUi, pollUi_of_answers hui hturn]
  rfl

theorem exec_housekeep_of_bare (a : Byte) {s : State} (h : s.par.services = []) :
    exec (.housekeep a) s = .next (answering .nothing s) :=
  quietly_keepingPhase_of_next (housekeep_of_bare a h)

/-- A drain that finds the transport empty asks it once, or not at all when the bound is 0. -/
theorem exec_drain_of_none (n : Byte) {s : State} {more : List (List Frame)} (hreturn : AllReturn s)
    (hrx : s.env.rx = []) (harrivals : s.env.arrivals = [] :: more) :
    exec (.drain n) s =
      .next (answering .nothing (withArrivals (if n = 0x00#8 then [] :: more else more) s)) := by
  by_cases hn : n = 0x00#8
  · subst hn
    rw [if_pos rfl, ← harrivals]
    rfl
  · have hturns : drain n s = drainFrom ((n - 0x01#8).toNat + 1) 0 (atPhase (.p4Drain 0 .fh 0) s) := by
      rw [drain, toNat_succ_of_ne_zero hn]
    have hnone := hturns.trans (drainFrom_of_none _ 0 hreturn harrivals (by simpa using hrx))
    rw [if_neg hn, withArrivals]
    rw [← hrx] at hnone
    exact quietly_keepingPhase_of_next hnone

/-- A bare cycle is the poll, the action and the timeout check. -/
theorem exec_process_of_bare (n : Byte) {s u v : State} {a : Byte} {rest : List UiTurn} {more : List (List Frame)}
    (hreturn : AllReturn s) (hidle : s.seq = .idle) (hservices : s.par.services = []) (hui : s.par.uiPresent = true)
    (hturn : s.env.turns = .answers a :: rest) (hrx : s.env.rx = []) (harrivals : s.env.arrivals = [] :: more)
    (hu : applyAction a (polled a rest s) = .next u) (hv : timeoutCheck (answering .nothing u) = .next v) :
    exec (.process n) s =
      .next (answering .nothing (withArrivals (if n = 0x00#8 then [] :: more else more) v)) := by
  obtain ⟨hpar, -, hagents⟩ := keptByModes_agents.applyAction hu
  have happlied : exec (.museract a) (polled a rest s) = .next (answering .nothing u) := quietly_of_next hu
  have hhooks := exec_housekeep_of_bare a (s := answering .nothing u) (hpar.symm ▸ hservices)
  have hstill : AllReturn u := hagents.return_of_return hreturn
  have hdrained := exec_drain_of_none n (s := answering .nothing u) hstill (hagents.rx_eq.trans hrx)
    (hagents.arrivals_eq.trans harrivals)
  have hjudged := quietly_of_next (timeoutCheck_withArrivals (s := answering .nothing u)
    (if n = 0x00#8 then [] :: more else more) hstill hv)
  rw [exec_process_eq n hidle, processSteps, exec_pUi_of_answers hui hturn, andThen_next]
  show andThen (exec (.museract a) (polled a rest s)) _ = _
  rw [happlied, andThen_next]
  show andThen (exec (.housekeep a) (answering .nothing u)) _ = _
  rw [hhooks, andThen_next]
  exact (congrArg (andThen · _) hdrained).trans hjudged

/-! ### Scripted draws -/

theorem clockNow_of_cons {s : State} {d : Nat} {rest : List Nat} (h : s.env.ticks = d :: rest) :
    clockNow s = ((s.env.time + d) % 2 ^ s.par.clockWidth, { s with
      env := { s.env with time := s.env.time + d, ticks := rest }
      trace := s.trace ++ [.clockNow ((s.env.time + d) % 2 ^ s.par.clockWidth)] }) := by
  rw [clockNow, drawTick_of_cons h]
  rfl

theorem negotiate_of_scripts {s : State} {ok : Bool} {sends : List Bool} {d : Nat} {ticks : List Nat}
    (hreturn : AllReturn s) (hsends : s.env.sends = ok :: sends) (hticks : s.env.ticks = d :: ticks) :
    negotiate s = .next { s with
      env := { s.env with sends := sends, time := s.env.time + d, ticks := ticks }
      started := (s.env.time + d) % 2 ^ s.par.clockWidth, changing := true
      trace := s.trace ++ shownMode s 0x02#8 ++
        [.transportSend [s.par.opcRqnn, nnHigh s.cfg.nn, nnLow s.cfg.nn] ok,
          .clockNow ((s.env.time + d) % 2 ^ s.par.clockWidth)] } := by
  obtain ⟨ok', e, e', hsend, hclock, h⟩ := negotiate_of_allReturn hreturn
  obtain ⟨rfl, rfl⟩ := hsend.scripted ok sends hsends
  obtain rfl := hclock.scripted d ticks hticks
  exact h

/-- The check in ModeChanging, by the elapsed time. -/
theorem timeoutCheck_of_ticks {s : State} {d : Nat} {ticks : List Nat} (hreturn : AllReturn s)
    (hchanging : s.changing = true) (hticks : s.env.ticks = d :: ticks) {expired : Bool}
    (hexpired : expired = decide (s.par.timeoutMs ≤
      subModulo s.par.clockWidth ((s.env.time + d) % 2 ^ s.par.clockWidth) s.started)) :
    timeoutCheck s = .next { s with
      env := { s.env with time := s.env.time + d, ticks := ticks }, changing := !expired
      trace := s.trace ++ [.clockNow ((s.env.time + d) % 2 ^ s.par.clockWidth)] ++
        if expired then shownMode s (BitVec.setWidth 8 s.cfg.mode) else [] } := by
  have hclock := clockNow_of_cons hticks
  cases expired with
  | true =>
    have hle := of_decide_eq_true hexpired.symm
    rw [timeoutCheck_of_expired_of_allReturn hreturn hchanging (by rw [hclock]; exact hle), hclock]
    rfl
  | false =>
    have hlt := Nat.lt_of_not_le (of_decide_eq_false hexpired.symm)
    rw [timeoutCheck_of_pending hchanging (by rw [hclock]; exact hlt), hclock]
    simp [hchanging]

/-! ### A negotiation that nobody confirms -/

/-- The cycle in which `change-mode` opens the negotiation; its own check finds too little time gone. -/
theorem exec_process_opens (n : Byte) {s : State} {ok : Bool} {sends : List Bool} {d1 d2 : Nat} {ticks : List Nat}
    {turns : List UiTurn} {more : List (List Frame)} (hreturn : AllReturn s) (hidle : s.seq = .idle)
    (hservices : s.par.services = []) (hui : s.par.uiPresent = true) (hslim : s.cfg.mode = 0#1)
    (hturn : s.env.turns = .answers 0x01#8 :: turns) (hsends : s.env.sends = ok :: sends)
    (hticks : s.env.ticks = d1 :: d2 :: ticks) (hrx : s.env.rx = []) (harrivals : s.env.arrivals = [] :: more)
    (htimeout : s.par.timeoutMs < 2 ^ s.par.clockWidth) (hshort : d2 < s.par.timeoutMs) :
    exec (.process n) s = .next { s with
      act := 0x01#8, answer := .nothing, changing := true
      started := (s.env.time + d1) % 2 ^ s.par.clockWidth
      env := { s.env with
        turns := turns, sends := sends, time := s.env.time + d1 + d2, ticks := ticks
        arrivals := if n = 0x00#8 then [] :: more else more }
      trace := s.trace ++ [.uiRun, .uiRequestedAction 0x01#8] ++ shownMode s 0x02#8 ++
        [.transportSend [s.par.opcRqnn, nnHigh s.cfg.nn, nnLow s.cfg.nn] ok,
          .clockNow ((s.env.time + d1) % 2 ^ s.par.clockWidth)] ++
        [.clockNow ((s.env.time + d1 + d2) % 2 ^ s.par.clockWidth)] } := by
  have hopened := (applyAction_changeMode_of_slim (s := polled 0x01#8 turns s) hslim).trans
    (negotiate_of_scripts hreturn hsends hticks)
  have hpending : false = decide (s.par.timeoutMs ≤ subModulo s.par.clockWidth
      ((s.env.time + d1 + d2) % 2 ^ s.par.clockWidth) ((s.env.time + d1) % 2 ^ s.par.clockWidth)) := by
    rw [subModulo_samples _ (Nat.le_add_right _ _), Nat.add_sub_cancel_left, Nat.mod_eq_of_lt (hshort.trans htimeout),
      decide_eq_false (Nat.not_le_of_gt hshort)]
  have hjudged := timeoutCheck_of_ticks (s := answering .nothing { polled 0x01#8 turns s with
    env := { (polled 0x01#8 turns s).env with sends := sends, time := s.env.time + d1, ticks := d2 :: ticks }
    started := (s.env.time + d1) % 2 ^ s.par.clockWidth, changing := true
    trace := (polled 0x01#8 turns s).trace ++ shownMode s 0x02#8 ++
      [.transportSend [s.par.opcRqnn, nnHigh s.cfg.nn, nnLow s.cfg.nn] ok,
        .clockNow ((s.env.time + d1) % 2 ^ s.par.clockWidth)] }) hreturn rfl rfl hpending
  rw [exec_process_of_bare n hreturn hidle hservices hui hturn hrx harrivals hopened hjudged]
  simp [answering, withArrivals, polled]

/-- A later cycle in ModeChanging, in which the user asks for nothing. -/
theorem exec_process_judges (n : Byte) {s : State} {a : Byte} {d : Nat} {ticks : List Nat} {turns : List UiTurn}
    {more : List (List Frame)} (hreturn : AllReturn s) (hidle : s.seq = .idle) (hservices : s.par.services = [])
    (hui : s.par.uiPresent = true) (hchanging : s.changing = true) (hturn : s.env.turns = .answers a :: turns)
    (hchange : a ≠ 0x01#8) (hrenegotiate : a ≠ 0x02#8) (hticks : s.env.ticks = d :: ticks) (hrx : s.env.rx = [])
    (harrivals : s.env.arrivals = [] :: more) {expired : Bool}
    (hexpired : expired = decide (s.par.timeoutMs ≤
      subModulo s.par.clockWidth ((s.env.time + d) % 2 ^ s.par.clockWidth) s.started)) :
    exec (.process n) s = .next { s with
      act := a, answer := .nothing, changing := !expired
      env := { s.env with
        turns := turns, time := s.env.time + d, ticks := ticks, arrivals := if n = 0x00#8 then [] :: more else more }
      trace := s.trace ++ [.uiRun, .uiRequestedAction a] ++ [.clockNow ((s.env.time + d) % 2 ^ s.par.clockWidth)] ++
        if expired then shownMode s (BitVec.setWidth 8 s.cfg.mode) else [] } := by
  have hignored := applyAction_ignored (polled a turns s) hchange hrenegotiate
  have hjudged := timeoutCheck_of_ticks (s := answering .nothing (polled a turns s)) hreturn hchanging hticks hexpired
  exact exec_process_of_bare n hreturn hidle hservices hui hturn hrx harrivals hignored hjudged

/-! ### The obligations -/

/-- Settles O45: `exec_process_eq`, and the bare cycle, whose action and check complete. -/
theorem cycleIsItsFiveSteps : Obligations.CycleIsItsFiveSteps := by
  refine ⟨fun s n => exec_process_eq n, fun s n a rest more hreturn hidle hservices _ hui hturn hrx harrivals => ?_⟩
  obtain ⟨u, hu⟩ := applyAction_completes (s := polled a rest s) hreturn a
  obtain ⟨-, -, hagents⟩ := keptByModes_agents.applyAction hu
  have hstill : AllReturn u := hagents.return_of_return hreturn
  obtain ⟨v, hv⟩ := timeoutCheck_completes (s := answering .nothing u) hstill
  exact ⟨_, _, _, exec_pUi_of_answers hui hturn, quietly_of_next hu, quietly_of_next hv,
    exec_process_of_bare n hreturn hidle hservices hui hturn hrx harrivals hu hv⟩

/-- Settles O46: the cycle that opens the negotiation, and the later one that judges it by the two ticks since the sample. -/
theorem unansweredNegotiationTimesOut : Obligations.UnansweredNegotiationTimesOut := by
  intro s n m ok sends d1 d2 d3 ticks a turns more hreturn hidle hservices _ hui hslim hturn hchange hrenegotiate hsends
    hticks hrx harrivals htimeout hshort
  obtain ⟨expired, hexpired⟩ : ∃ expired : Bool,
      expired = decide (s.par.timeoutMs ≤ (d2 + d3) % 2 ^ s.par.clockWidth) := ⟨_, rfl⟩
  obtain ⟨left, hleft⟩ : ∃ left, (if n = 0x00#8 then [] :: [] :: more else [] :: more) = [] :: left := by
    by_cases hn : n = 0x00#8
    · exact ⟨_, if_pos hn⟩
    · exact ⟨_, if_neg hn⟩
  have hopens := exec_process_opens n hreturn hidle hservices hui hslim hturn hsends hticks hrx harrivals htimeout hshort
  have helapsed : subModulo s.par.clockWidth ((s.env.time + d1 + d2 + d3) % 2 ^ s.par.clockWidth)
      ((s.env.time + d1) % 2 ^ s.par.clockWidth) = (d2 + d3) % 2 ^ s.par.clockWidth := by
    rw [Nat.add_assoc (s.env.time + d1), subModulo_samples _ (Nat.le_add_right _ _), Nat.add_sub_cancel_left]
  rw [hleft] at hopens
  have hjudges := exec_process_judges m (s := { s with
      act := 0x01#8, answer := .nothing, changing := true
      started := (s.env.time + d1) % 2 ^ s.par.clockWidth
      env := { s.env with
        turns := .answers a :: turns, sends := sends, time := s.env.time + d1 + d2, ticks := d3 :: ticks
        arrivals := [] :: left }
      trace := s.trace ++ [.uiRun, .uiRequestedAction 0x01#8] ++ shownMode s 0x02#8 ++
        [.transportSend [s.par.opcRqnn, nnHigh s.cfg.nn, nnLow s.cfg.nn] ok,
          .clockNow ((s.env.time + d1) % 2 ^ s.par.clockWidth)] ++
        [.clockNow ((s.env.time + d1 + d2) % 2 ^ s.par.clockWidth)] })
    hreturn hidle hservices hui rfl rfl hchange hrenegotiate rfl hrx rfl
    (hexpired.trans (by rw [← helapsed]))
  refine ⟨_, _, hopens, hjudges, modeState_of_changing rfl, rfl, rfl, hidle, ?fires, fun hstable => ?slim, ?sends⟩
  case fires => simp [hexpired]
  case slim =>
    rw [modeState_of_stable hstable]
    exact if_pos hslim
  case sends =>
    refine ⟨_, by simp only [List.append_assoc]; rfl, ?_⟩
    cases expired <;> simp [shownMode, hui]

end Sys2Proof.Machine
end

section
/-!
PROOF. When every outside agent keeps its obligations, each operation that invokes the parties completes
(41_service_pipeline.md R130 to R137; 44_dispatcher_cycle.md R185). What an operation needs is counted in invocations and
availability queries, and each lemma says how many of them it leaves for the rest.
-/
namespace Sys2Proof.Machine

/-! ### What the outside agents still provide -/

/-- The parties' and the transport's scripts reach through `invocations` invocations and `queries` availability queries,
lawfully, and every transaction returns: `LawfulEnv` without the turn of the UI, which only the poll takes. -/
structure Supplied (invocations queries : Nat) (e : Env) : Prop where
  behaviours_enough : invocations ≤ e.behaviours.length
  behaviours_lawful : ∀ b ∈ e.behaviours, lawful b = true
  arrivals_enough : queries ≤ e.arrivals.length
  arrivals_lawful : ∀ fs ∈ e.arrivals, lawfulFrames fs = true
  rx_lawful : lawfulFrames e.rx = true
  all_return : e.stallsAfter = none

theorem LawfulEnv.supplied {b q : Nat} {e : Env} (h : LawfulEnv b q e) : Supplied b q e :=
  ⟨h.behaviours_enough, h.behaviours_lawful, h.arrivals_enough, h.arrivals_lawful, h.rx_lawful, h.all_return⟩

namespace Supplied

variable {b b' q q' : Nat} {e e' : Env}

theorem mono (h : Supplied b q e) (hb : b' ≤ b) : Supplied b' q e :=
  { h with behaviours_enough := hb.trans h.behaviours_enough }

theorem mono_queries (h : Supplied b q e) (hq : q' ≤ q) : Supplied b q' e :=
  { h with arrivals_enough := hq.trans h.arrivals_enough }

theorem goOn (h : Supplied b q e) (hagents : AgentsGoOn e e') : Supplied b q e' where
  behaviours_enough := hagents.behaviours_eq ▸ h.behaviours_enough
  behaviours_lawful := hagents.behaviours_eq ▸ h.behaviours_lawful
  arrivals_enough := hagents.arrivals_eq ▸ h.arrivals_enough
  arrivals_lawful := hagents.arrivals_eq ▸ h.arrivals_lawful
  rx_lawful := hagents.rx_eq ▸ h.rx_lawful
  all_return := hagents.return_of_return h.all_return

end Supplied

/-- Over these parameters, with that much provided. -/
def Ready (p : Params) (invocations queries : Nat) (s : State) : Prop := s.par = p ∧ Supplied invocations queries s.env

/-- The operation completes, over the same parameters, and leaves that much for the rest. -/
def Completes (p : Params) (invocations queries : Nat) (r : Result) : Prop :=
  ∃ t, r = .next t ∧ Ready p invocations queries t

variable {p : Params} {b q : Nat} {s : State}

theorem Ready.allReturn (h : Ready p b q s) : AllReturn s := h.2.all_return

theorem Ready.mono {b' : Nat} (h : Ready p b q s) (hb : b' ≤ b) : Ready p b' q s := ⟨h.1, h.2.mono hb⟩

namespace Completes

theorem next (h : Ready p b q s) : Completes p b q (.next s) := ⟨s, rfl, h⟩

theorem andThen {b' q' : Nat} {r : Result} {k : State → Result} (h : Completes p b q r)
    (hk : ∀ t, Ready p b q t → Completes p b' q' (k t)) : Completes p b' q' (andThen r k) := by
  obtain ⟨t, rfl, ht⟩ := h
  exact hk t ht

theorem exists_next {r : Result} (h : Completes p b q r) : ∃ t, r = .next t := by
  obtain ⟨t, ht, -⟩ := h
  exact ⟨t, ht⟩

theorem quietly {op : State → Result} (h : Completes p b q (op s)) : Completes p b q (quietly op s) :=
  h.andThen fun t ht => .next (s := answering .nothing t) ht

theorem keepingPhase {op : State → Result} (h : Completes p b q (op s)) : Completes p b q (keepingPhase op s) :=
  h.andThen fun t ht => .next (s := atPhase s.seq t) ht

end Completes

/-! ### An invoked party -/

/-- What an invoked party can cause leaves the parameters and the outside agents' other scripts. -/
theorem keptByParties_agents : KeptByParties fun s t => t.par = s.par ∧ t.seq = s.seq ∧ AgentsGoOn s.env t.env where
  toKeptByModes := keptByModes_agents
  put _ s := ⟨rfl, rfl, .refl s.env⟩
  get s := ⟨rfl, rfl, .refl s.env⟩
  clear s := ⟨rfl, rfl, .refl s.env⟩

theorem Ready.goOn {t : State} (h : Ready p b q s) (hkept : t.par = s.par ∧ t.seq = s.seq ∧ AgentsGoOn s.env t.env) :
    Ready p b q t :=
  ⟨hkept.1.trans h.1, h.2.goOn hkept.2.2⟩

/-- The two lists of the operations a party may request, R252's and the refusals', are one. -/
theorem admitService_of_may {i : Instr} (h : serviceMay i = true) : admitService i = none := by
  unfold admitService
  split
  · cases h
  · exact if_pos h

/-- An operation a party may request completes, when MCONFIRM's hand-off does. -/
theorem serviceOperation_completes {enumerate : State → Result}
    (hen : ∀ u, AllReturn u → ∃ t, enumerate u = .next t) {i : Instr} (hmay : serviceMay i = true)
    (hformed : i.wellFormed = true) {s : State} (hreturn : AllReturn s) : ∃ t, serviceOperation enumerate i s = .next t := by
  have hsent (m : Message) : ∃ t, answeringSend (transportSend m s) = .next t := by
    obtain ⟨_, _, _, h⟩ := answeringSend_transportSend_of_allReturn m hreturn
    exact ⟨_, h⟩
  have hnegotiated : ∃ t, quietly negotiate s = .next t := by
    obtain ⟨_, _, _, _, _, h⟩ := negotiate_of_allReturn hreturn
    exact ⟨_, quietly_of_next h⟩
  cases i with
  | qput m => exact ⟨_, if_pos hformed⟩
  | qget | qpeek | qavail | qclear | qsize | qfull | qputs | qgets | qovf | qhwm => exact ⟨_, rfl⟩
  | minit | mreneg => exact hnegotiated
  | mrevert =>
    obtain ⟨_, _, _, h⟩ := revert_of_allReturn hreturn
    exact ⟨_, quietly_of_next h⟩
  | msetslim => exact ⟨_, quietly_of_next (setSlim_of_allReturn hreturn)⟩
  | mconfirm =>
    suffices h : ∃ t, confirm enumerate s = .next t by
      obtain ⟨t, ht⟩ := h
      exact ⟨_, quietly_of_next ht⟩
    rw [confirm_of_allReturn enumerate hreturn]
    cases hfind : findService s.par.svcIdCan s.par.services with
    | none => exact ⟨_, handOff_of_none (s := enteredFlim s) enumerate hfind⟩
    | some j =>
      obtain ⟨t, ht⟩ := hen (emit (.svcEnumerate j) (enteredFlim s)) hreturn
      exact ⟨t, (handOff_of_some (s := enteredFlim s) enumerate hfind).trans ht⟩
  | send m =>
    obtain ⟨t, ht⟩ := hsent m
    exact ⟨t, (if_pos hformed).trans ht⟩
  | sendnn | sendWrack | sendCmderr | sendGrsp => exact hsent _
  | _ => cases hmay

/-- A lawful party returns, with its answer. -/
theorem runBehaviour_completes {b : Behaviour} (hb : lawful b = true) {s : State} (hreturn : AllReturn s) :
    ∃ r, runBehaviour b s = .next r := by
  induction b generalizing s with
  | done claimed => exact ⟨_, rfl⟩
  | hang => cases hb
  | takeFrame => cases hb
  | setCfg w rest ih =>
    obtain ⟨hw, hrest⟩ := Bool.and_eq_true_iff.mp hb
    rw [runBehaviour, setCfg_of_legal s hw, andThen_next]
    exact ih hrest ((keptByParties_agents.storeCfg w s).2.2.return_of_return hreturn)
  | getCfg f rest ih => exact ih hb (s := answering (cfgAnswer f s) s) hreturn
  | request bytes nested rest ihNested ihRest =>
    obtain ⟨hb, hrest⟩ := Bool.and_eq_true_iff.mp hb
    obtain ⟨hbytes, hnested⟩ := Bool.and_eq_true_iff.mp hb
    have henumerate (u : State) (hu : AllReturn u) :
        ∃ t, (andThen (runBehaviour nested u) fun r => .next r.2 : Result) = .next t := by
      obtain ⟨r, hr⟩ := ihNested hnested hu
      exact ⟨r.2, by rw [hr, andThen_next]⟩
    cases hi : decodeRequest bytes with
    | error e => simp [lawfulRequest, hi] at hbytes
    | ok i =>
      have hmay : serviceMay i = true := by simpa only [lawfulRequest, hi] using hbytes
      obtain ⟨t, ht⟩ := serviceOperation_completes henumerate hmay (decodeRequest_eq_ok hi).1 hreturn
      have hkept := keptByParties_agents.serviceOperation (fun u v huv => by
        obtain ⟨r, hr, hrv⟩ := andThen_eq_next.mp huv
        cases hrv
        exact keptByParties_agents.kept.runBehaviour nested u r hr) ht
      rw [runBehaviour_request, serviceRequest_of_admitted s hi (admitService_of_may hmay), ht, andThen_next]
      exact ihRest hrest (hkept.2.2.return_of_return hreturn)

/-- One invocation uses up one behaviour. -/
theorem invoke_completes (h : Ready p (b + 1) q s) : ∃ r, invoke s = .next r ∧ Ready p b q r.2 := by
  obtain ⟨hpar, hsupplied⟩ := h
  cases hscript : s.env.behaviours with
  | nil =>
    have hlong := hsupplied.behaviours_enough
    simp [hscript] at hlong
  | cons party rest =>
    have hlong := hsupplied.behaviours_enough
    have hlawful := hsupplied.behaviours_lawful
    rw [hscript] at hlong hlawful
    have hready : Ready p b q { s with env := { s.env with behaviours := rest } } :=
      ⟨hpar, { hsupplied with
        behaviours_enough := Nat.le_of_succ_le_succ hlong
        behaviours_lawful := fun party' hmem => hlawful party' (List.mem_cons_of_mem _ hmem) }⟩
    obtain ⟨r, hr⟩ := runBehaviour_completes (hlawful party List.mem_cons_self) hready.allReturn
    refine ⟨r, ?_, hready.goOn (keptByParties_agents.kept.runBehaviour party _ r hr)⟩
    rw [invoke, drawBehaviour_of_cons hscript]
    exact hr

theorem invokeHook_completes (h : Ready p (b + 1) q s) : Completes p b q (invokeHook s) := by
  obtain ⟨r, hr, hready⟩ := invoke_completes h
  exact ⟨r.2, by rw [invokeHook, hr, andThen_next], hready⟩

theorem invokeHandler_completes (h : Ready p (b + 1) q s) : ∃ r, invokeHandler s = .next r ∧ Ready p b q r.2 := by
  obtain ⟨r, hr, hready⟩ := invoke_completes h
  exact ⟨(r.1, emit (.handlerAnswer r.1) r.2), by rw [invokeHandler, hr, andThen_next], hready⟩

/-! ### The passes -/

theorem initFrom_completes {n i : Nat} (h : Ready p (b + n) q s) : Completes p b q (initFrom n i s) := by
  induction n generalizing i s with
  | zero => exact .next h
  | succ n ih => exact (invokeHook_completes (s := emit (.svcInit i) s) h).andThen fun _ => ih

theorem housekeepFrom_completes {a : Byte} {n i : Nat} (h : Ready p (b + n) q s) :
    Completes p b q (housekeepFrom a n i s) := by
  induction n generalizing i s with
  | zero => exact .next h
  | succ n ih =>
    exact (invokeHook_completes (s := emit (.svcHousekeep i a) (atPhase (.p3House i) s)) h).andThen fun _ => ih

/-- A pass invokes at most one handler for each service. -/
theorem passFrom_completes {c : Nat} {sub : Sub} (hsub : isPass sub = true) (call : Nat → State → Event) {n i : Nat}
    (h : Ready p (b + n) q s) : Completes p b q (passFrom c sub call n i s) := by
  induction n generalizing i s with
  | zero => exact .next h
  | succ n ih =>
    obtain ⟨r, hr, hready⟩ := invokeHandler_completes (s := emit (call i s) (atPhase (.p4Drain c sub i) s)) h
    obtain ⟨phase, hanswer⟩ := passAnswer_completes hsub r.1 c i r.2
    rw [passFrom, hr, andThen_next, hanswer, andThen_next]
    split
    · exact .next (s := atPhase phase r.2) (hready.mono (Nat.le_add_right b n))
    · exact ih (s := atPhase phase r.2) hready

theorem Ready.serviceCount_eq (h : Ready p b q s) : serviceCount s = p.services.length :=
  congrArg (fun p : Params => p.services.length) h.1

theorem initServices_completes (h : Ready p (b + p.services.length) q s) : Completes p b q (initServices s) :=
  initFrom_completes (h.1.symm ▸ h)

theorem housekeep_completes (a : Byte) (h : Ready p (b + p.services.length) q s) :
    Completes p b q (housekeep a s) := by
  rw [← h.serviceCount_eq] at h
  exact housekeepFrom_completes h

theorem rawPass_completes (h : Ready p (b + p.services.length) q s) : Completes p b q (rawPass s) := by
  rw [rawPass_eq]
  rw [← h.serviceCount_eq] at h
  exact passFrom_completes rfl _ h

theorem decodedPass_completes (h : Ready p (b + p.services.length) q s) : Completes p b q (decodedPass s) := by
  rw [decodedPass_eq]
  split
  · rw [← h.serviceCount_eq] at h
    exact passFrom_completes rfl _ h
  · exact .next (h.mono (Nat.le_add_right _ _))

theorem callbackStep_completes (h : Ready p (b + 1) q s) : Completes p b q (callbackStep s) := by
  unfold callbackStep
  split
  · exact invokeHook_completes (s := emit (.callback (readMsg s)) (atPhase (.p4Drain (drainedCount s) .fh 0) s)) h
  · exact .next (h.mono (Nat.le_add_right b 1))

theorem handOff_completes (h : Ready p (b + 1) q s) : Completes p b q (handOff invokeHook s) := by
  cases hfind : findService s.par.svcIdCan s.par.services with
  | none =>
    rw [handOff_of_none invokeHook hfind]
    exact .next (h.mono (Nat.le_add_right b 1))
  | some i =>
    rw [handOff_of_some invokeHook hfind]
    exact invokeHook_completes (s := emit (.svcEnumerate i) s) h

theorem confirm_completes (h : Ready p (b + 1) q s) : Completes p b q (confirm invokeHook s) := by
  rw [confirm_of_allReturn invokeHook h.allReturn]
  exact handOff_completes (s := enteredFlim s) h

/-! ### The steps of the cycle -/

theorem indicateActivity_completes (h : Ready p b q s) : Completes p b q (indicateActivity s) :=
  ⟨_, indicateActivity_of_allReturn h.allReturn, h⟩

theorem timeoutCheck_completes_ready (h : Ready p b q s) : Completes p b q (timeoutCheck s) := by
  obtain ⟨t, ht⟩ := timeoutCheck_completes h.allReturn
  exact ⟨t, ht, h.goOn (keptByModes_agents.timeoutCheck ht)⟩

theorem applyAction_completes_ready (a : Byte) (h : Ready p b q s) : Completes p b q (applyAction a s) := by
  obtain ⟨t, ht⟩ := applyAction_completes h.allReturn a
  exact ⟨t, ht, h.goOn (keptByModes_agents.applyAction ht)⟩

theorem actOn_completes (h : Ready p (b + p.services.length) q s) : Completes p b q (actOn s) :=
  (applyAction_completes_ready s.act (s := atPhase .p2Act s) h).andThen fun t ht =>
    housekeep_completes s.act (s := atPhase (.p3House 0) t) ht

theorem classTest_completes (c : Nat) (f : Frame) (h : Ready p (b + p.services.length) q s) :
    Completes p b q (classTest c f s) := by
  cases hopc : hasOpcode f with
  | true =>
    rw [classTest_of_opcode c s hopc]
    exact decodedPass_completes (s := atPhase (.p4Drain c .dec 0) s) h
  | false =>
    rw [classTest_of_no_opcode c s hopc]
    exact .next (h.mono (Nat.le_add_right _ _))

/-- The work on one frame invokes the callback and both passes at most. -/
theorem dispatchFrame_completes (c : Nat) (f : Frame) (h : Ready p (b + (1 + 2 * p.services.length)) q s) :
    Completes p b q (dispatchFrame c f s) := by
  have hcount : b + (1 + 2 * p.services.length) = b + p.services.length + p.services.length + 1 := by omega
  rw [hcount] at h
  refine (callbackStep_completes (s := atPhase (.p4Drain c .fh 0) (holdFrame f s)) h).andThen fun t ht => ?_
  refine (rawPass_completes (s := atPhase (.p4Drain c .raw 0) t) ht).andThen fun u hu => ?_
  exact (indicateActivity_completes (s := atPhase (.p4Drain c .activity 0) u) hu).andThen fun _ =>
    classTest_completes c f

theorem lawfulFrames_cons {f : Frame} {rest : List Frame} (h : lawfulFrames (f :: rest) = true) :
    legalLen f.len = true ∧ lawfulFrames rest = true :=
  Bool.and_eq_true_iff.mp (List.all_cons.symm.trans h)

theorem lawfulFrames_append {fs gs : List Frame} (h : lawfulFrames fs = true) (h' : lawfulFrames gs = true) :
    lawfulFrames (fs ++ gs) = true := by
  simpa [lawfulFrames, List.all_append] using And.intro h h'

/-- The drain loop asks the transport once for each turn. -/
theorem drainFrom_completes {n c : Nat} (h : Ready p (b + n * (1 + 2 * p.services.length)) (q + n) s) :
    Completes p b q (drainFrom n c s) := by
  induction n generalizing c s with
  | zero => exact .next (by simpa using h)
  | succ n ih =>
    obtain ⟨hpar, hsupplied⟩ := h
    have hreturn : AllReturn s := hsupplied.all_return
    cases hscript : s.env.arrivals with
    | nil =>
      have hlong := hsupplied.arrivals_enough
      simp [hscript] at hlong
    | cons batch more =>
      have hlong := hsupplied.arrivals_enough
      have hlawful := hsupplied.arrivals_lawful
      rw [hscript] at hlong hlawful
      have hbuffer := lawfulFrames_append hsupplied.rx_lawful (hlawful batch List.mem_cons_self)
      have hasked (rest : List Frame) (hrest : lawfulFrames rest = true) :
          Supplied (b + (n + 1) * (1 + 2 * p.services.length)) (q + n) { s.env with rx := rest, arrivals := more } :=
        { hsupplied with
          arrivals_enough := Nat.le_of_succ_le_succ hlong
          arrivals_lawful := fun fs hmem => hlawful fs (List.mem_cons_of_mem _ hmem)
          rx_lawful := hrest }
      cases hrx : s.env.rx ++ batch with
      | nil =>
        rw [drainFrom_of_none n c hreturn hscript hrx]
        exact .next ⟨hpar, ((hasked [] rfl).mono (Nat.le_add_right _ _)).mono_queries (Nat.le_add_right _ _)⟩
      | cons f rest =>
        rw [hrx] at hbuffer
        obtain ⟨hlen, hrest⟩ := lawfulFrames_cons hbuffer
        have hcount : b + (n + 1) * (1 + 2 * p.services.length) =
            b + n * (1 + 2 * p.services.length) + (1 + 2 * p.services.length) := by ring
        have hready : Ready p (b + n * (1 + 2 * p.services.length) + (1 + 2 * p.services.length)) (q + n) { s with
            env := { s.env with rx := rest, arrivals := more }, trace := s.trace ++ [.transportNext f] } :=
          ⟨hpar, hcount ▸ hasked rest hrest⟩
        rw [drainFrom_of_frame n c hreturn hscript hrx hlen]
        exact (dispatchFrame_completes (c + 1) f hready).andThen fun _ => ih

theorem drain_completes {n : Byte} (h : Ready p (b + n.toNat * (1 + 2 * p.services.length)) (q + n.toNat) s) :
    Completes p b q (drain n s) :=
  drainFrom_completes (n := n.toNat) (s := atPhase (.p4Drain 0 .fh 0) s) h

/-- The UI is asked where there is one. -/
theorem pollUi_completes (h : Ready p b q s) (hturn : ∃ a rest, s.env.turns = .answers a :: rest) :
    Completes p b q (pollUi s) := by
  cases hui : s.par.uiPresent with
  | false => exact ⟨_, pollUi_of_absent hui, h⟩
  | true =>
    obtain ⟨a, rest, hturn⟩ := hturn
    exact ⟨_, pollUi_of_answers hui hturn, h.1, { h.2 with }⟩

theorem cycle_completes {n : Byte}
    (h : Ready p (p.services.length + n.toNat * (1 + 2 * p.services.length)) n.toNat s)
    (hturn : ∃ a rest, s.env.turns = .answers a :: rest) : Completes p 0 0 (cycle n s) := by
  have hcount : p.services.length + n.toNat * (1 + 2 * p.services.length) =
      0 + n.toNat * (1 + 2 * p.services.length) + p.services.length := by omega
  have hqueries : n.toNat = 0 + n.toNat := (Nat.zero_add _).symm
  have hready : Ready p (0 + n.toNat * (1 + 2 * p.services.length) + p.services.length) (0 + n.toNat) (atPhase .p1Ui s) :=
    hcount ▸ hqueries ▸ h
  refine (pollUi_completes hready hturn).andThen fun t ht => ?_
  refine (actOn_completes ht).andThen fun u hu => (drain_completes hu).andThen fun v hv => ?_
  exact (timeoutCheck_completes_ready (s := atPhase .p5Tmo v) hv).andThen fun w hw => .next (s := atPhase .idle w) hw

/-! ### The obligations -/

/-- Settles O47: the steps of the cycle complete one after the other on what the outside agents provide. -/
theorem lawfulCycleAlwaysEnds : Obligations.LawfulCycleAlwaysEnds := by
  intro s n hinv hidle henv
  have hcycle : Completes s.par 0 0 (cycle n s) := cycle_completes ⟨rfl, henv.supplied⟩ henv.turn_answers
  obtain ⟨t, ht⟩ := hcycle.quietly.exists_next
  have hrun := (exec_process_of_idle n hidle).trans ht
  exact ⟨t, hrun, exec_seq_idle hidle hrun, exec_keeps_inv hinv hrun⟩

/-- Settles O48: each of the operations completes on one invocation more than both passes take. -/
theorem lawfulInvocationsComplete : Obligations.LawfulInvocationsComplete := by
  intro s a rtr len data hdr i hinv henv hlen hi
  suffices h : Completes s.par 0 0 (exec i s) by
    obtain ⟨t, ht⟩ := h.exists_next
    exact ⟨t, ht, exec_keeps_inv hinv ht⟩
  have hready (b : Nat) (hb : b ≤ 1 + 2 * s.par.services.length) : Ready s.par b 0 s := ⟨rfl, henv.supplied.mono hb⟩
  have hpass : Ready s.par (0 + s.par.services.length) 0 s := hready _ (by omega)
  have hcall : Ready s.par (0 + 1) 0 s := hready _ (by omega)
  have hframe (f : Frame) (hf : legalLen f.len = true) : Completes s.par 0 0 (receive f s) := by
    rw [receive_of_legal s hf]
    exact (dispatchFrame_completes _ f (hready _ (by omega))).keepingPhase.quietly
  have haction (code : Byte) : Completes s.par 0 0 (reportedAction code s) :=
    (actOn_completes (s := { s with act := code }) hpass).keepingPhase.quietly
  have hlegal : legalLen len = true := (legalLen_iff len).mpr hlen
  obtain rfl | rfl | rfl | rfl | rfl | rfl | rfl | rfl | rfl | rfl | rfl | rfl | rfl | rfl | rfl := hi
  · exact (housekeep_completes a hpass).keepingPhase.quietly
  · exact (initServices_completes hpass).quietly
  · rw [exec_reset_of_legal hinv.parameters]
    exact Completes.quietly (initServices_completes ⟨rfl, hpass.2⟩)
  · exact (handOff_completes hcall).quietly
  · exact (confirm_completes hcall).quietly
  · exact haction a
  · exact haction 0x01#8
  · exact haction 0x02#8
  · exact haction 0x03#8
  · exact hframe ⟨true, rtr, len, data, hdr⟩ hlegal
  · exact hframe ⟨false, rtr, 0#4, data, hdr⟩ rfl
  · exact hframe ⟨false, rtr, len, data, hdr⟩ hlegal
  · exact (callbackStep_completes hcall).keepingPhase.quietly
  · exact (rawPass_completes hpass).keepingPhase.quietly
  · exact (decodedPass_completes hpass).keepingPhase.quietly

end Sys2Proof.Machine
end
